-- ==== Sys2Proof/Word.lean ====
section
/-! DEFINITION. The plainest data of the block: 8-bit characters, strings, durations, bits (00_scope.md section 5). -/

namespace Sys2Proof

/-- One character as it travels on the character ports: an 8-bit code (R44). -/
abbrev Byte := BitVec 8

/-- A string of 8-bit characters; index 0 is the leftmost (R33). -/
abbrev Text := List Byte

/-- A pulse train: element 0 is the first pulse in time (R33). A duration is a plain number of unnamed time units (00_scope.md section 7, D8):
its width DUR_WIDTH is a parameter, so the bound is an invariant and not a type. -/
abbrev Train := List Nat

/-- A bit sequence: element 0 is the first bit (R15). -/
abbrev Bits := List Bool

end Sys2Proof
end

