-- ==== Sys2Proof/Config.lean ====
section
/-! DEFINITION. The parameters of an instance (R5), the legal configurations (R6), the derived constants (R7).
The model's one free
value is at the end, opaque. -/

namespace Sys2Proof

/-- The implementation parameters of R5, one record. -/
structure Config where
  /-- ID_BITLENGTH, written N: the width of each header field. -/
  idBits : Nat
  /-- ID_MAX: the largest Address. -/
  idMax : Nat
  broadcast : Nat
  protocolId : Nat
  cmdOn : Nat
  cmdOff : Nat
  cmdStateQuery : Nat
  cmdStateInform : Nat
  pulseLow : Nat
  pulseHigh : Nat
  pulseFooter : Nat
  /-- PULSE_TOLERANCE, written TOL. -/
  tolerance : Nat
  /-- DUR_WIDTH: the number of bits of one duration word. -/
  durWidth : Nat
  protocolName : Text
  deriving DecidableEq, Repr

/-- The string `hausy_relay`, the reference value of PROTOCOL_NAME (R5, D38), in the character codes of R44. -/
def Config.hausyRelay : Text :=
  ['h', 'a', 'u', 's', 'y', '_', 'r', 'e', 'l', 'a', 'y'].map fun c => BitVec.ofNat 8 c.toNat

/-- The reference configuration: column `ref` of R5. -/
def Config.ref : Config where
  idBits := 18
  idMax := 262143
  broadcast := 0
  protocolId := 1
  cmdOn := 0
  cmdOff := 1
  cmdStateQuery := 2
  cmdStateInform := 3
  pulseLow := 300
  pulseHigh := 900
  pulseFooter := 10200
  tolerance := 100
  durWidth := 16
  protocolName := Config.hausyRelay

/-- The small configuration: it differs from the reference only in ID_BITLENGTH and ID_MAX (R5). -/
def Config.small : Config := { Config.ref with idBits := 6, idMax := 63 }

/-- The legal configurations, clause by clause as R6 (a) to (f).
DEDUCED (log 14): D2 asks for `1 <= ID_MAX` as well; R6 does not, and R6 is the rule. -/
abbrev Config.Legal (c : Config) : Prop :=
  (2 ≤ c.idBits ∧ c.idBits ≤ 30) ∧
  (c.broadcast ≤ c.idMax ∧ c.idMax ≤ 2 ^ c.idBits - 1) ∧
  c.protocolId ≤ 2 ^ c.idBits - 1 ∧
  ([c.cmdOn, c.cmdOff, c.cmdStateQuery, c.cmdStateInform].Nodup ∧
    ∀ k ∈ [c.cmdOn, c.cmdOff, c.cmdStateQuery, c.cmdStateInform], k ≤ 2 ^ c.idBits - 1) ∧
  (c.tolerance ≤ c.pulseLow ∧ c.pulseLow + c.tolerance < c.pulseHigh - c.tolerance ∧
    c.pulseHigh + c.tolerance < c.pulseFooter - c.tolerance) ∧
  c.pulseFooter + c.tolerance ≤ 2 ^ c.durWidth - 1

/-- MIN_RAW_LENGTH = 8*N + 2 (R7). -/
def Config.minRawLength (c : Config) : Nat := 8 * c.idBits + 2

/-- MAX_RAW_LENGTH = 20*N + 2 (R7). -/
def Config.maxRawLength (c : Config) : Nat := 20 * c.idBits + 2

/-- BIT_CAP = 10*N (R7). -/
def Config.bitCap (c : Config) : Nat := 10 * c.idBits

/-- PIN_CAP = MAX_RAW_LENGTH (R7). -/
def Config.pinCap (c : Config) : Nat := c.maxRawLength

/-- POUT_CAP = MAX_RAW_LENGTH (R7). -/
def Config.poutCap (c : Config) : Nat := c.maxRawLength

/-- The instances whose frames the table's FRAME rows with `n`-bit fields lay out: fields of `n` bits, PROTOCOL_ID 1, command codes 0 to 3
(the `source_fields` of those rows; R57). -/
abbrev Config.TableLayout (c : Config) (n : Nat) : Prop :=
  c.idBits = n ∧ c.protocolId = 1 ∧ c.cmdOn = 0 ∧ c.cmdOff = 1 ∧ c.cmdStateQuery = 2 ∧ c.cmdStateInform = 3

/-- The free value (log 33): what the spec does not state, one for each index. Nothing can be proved of it. -/
opaque Config.freeValue : Nat → Nat

end Sys2Proof
end

