-- ==== Sys2Proof/Syntax.lean ====
section
/-! DEFINITION. Instr, one constructor per row of spec/opcode_table.json, and the codes the rows are read from. -/

namespace Sys2Proof

/-- The rows of spec/opcode_table.json. The block has no instruction set (R4): a row is a code of one of six places, and the
place is named by the row's format (see `Code`). `d0` and `d1` are the two durations of a pair; `sys` and `unit`
the two Addresses a request names; `toSys` and `toUnit` the destination fields of a report. -/
inductive Instr where
  -- HOST_OP: the OP register, sampled when START is accepted (R58)
  | opValidate
  | opDecode
  | opEncode
  | opReserved
  -- REQ_CMD: the REQ_CMD register (R59)
  | rcAbsent
  | rcOn
  | rcOff
  | rcQuery
  -- FRAME_REQUEST_N18, FRAME_STATE_INFORM_N18 (R52, R53)
  | frameOn (sys unit : BitVec 18)
  | frameOff (sys unit : BitVec 18)
  | frameStateQuery (sys unit : BitVec 18)
  | frameStateInform (toSys toUnit sys unit : BitVec 18) (state : Bool)
  -- FRAME_REQUEST_N6, FRAME_STATE_INFORM_N6
  | frameOnSmall (sys unit : BitVec 6)
  | frameOffSmall (sys unit : BitVec 6)
  | frameStateQuerySmall (sys unit : BitVec 6)
  | frameStateInformSmall (toSys toUnit sys unit : BitVec 6) (state : Bool)
  -- PULSE_PAIR (R47, R48)
  | symBit0 (d0 d1 : Nat)
  | symBit1 (d0 d1 : Nat)
  | symTrailer (d0 d1 : Nat)
  -- STATUS (R60)
  | stIdle
  | stOk
  | stInvalid
  | stNoMatch
  | stErrArg
  | stBadOp
  | stFatalSizing
  | stFatalAlloc
  -- REASON (R61)
  | rsNone
  | rsSysMissing
  | rsSysInvalid
  | rsUnitMissing
  | rsUnitInvalid
  | rsCmdMissing
  deriving DecidableEq, Repr

/-- A code in the place it is read from: the six formats of the table, the FRAME formats by field width.
The same number stands for different rows in different places (log 5), so a code carries its place. -/
inductive Code where
  | hostOp (c : BitVec 2)
  | reqCmd (c : BitVec 2)
  | frameN18 (b : Bits)
  | frameN6 (b : Bits)
  | pulsePair (d0 d1 : Nat)
  | status (c : BitVec 3)
  | reason (c : BitVec 3)
  deriving DecidableEq, Repr

/-- The class of a duration (R72). -/
inductive PulseClass where
  | low
  | high
  | footer
  | none
  deriving DecidableEq, Repr

/-- The four frame commands (R57). -/
inductive Command where
  | on
  | off
  | stateQuery
  | stateInform
  deriving DecidableEq, Repr

end Sys2Proof
end

