-- ==== Sys2Proof/Machine/Operands.lean ====
section
/-! DEFINITION. The operand forms: bit fields (R51), the cursor read (R81), the class of a duration (R72, R73), pairs and bits (R74). -/

namespace Sys2Proof.Machine

/-- `to_bits(v, w)`: the `w` low bits of `v`, most significant first (00_scope.md section 5, R51). -/
def toBits : Nat → Nat → Bits
  | 0, _ => []
  | w + 1, v => v.testBit w :: toBits w v

/-- `from_bits(b)`: the unsigned value of `b`, most significant bit first (00_scope.md section 5, R51). -/
def fromBits (b : Bits) : Nat := b.foldl (fun acc bit => 2 * acc + bit.toNat) 0

/-- READ_FIELD (R81): the `w` bits at the cursor and the advanced cursor; `none` when fewer than `w` bits remain. -/
def readField (b : Bits) (cur w : Nat) : Option (Nat × Nat) :=
  if cur + w ≤ b.length then some (fromBits ((b.drop cur).take w), cur + w) else none

/-- `|a - b|`, which never goes below zero (00_scope.md section 5, R9 (b)). -/
def absDiff (a b : Nat) : Nat := if b ≤ a then a - b else b - a

/-- The closed band of a reference (R72, R73). -/
def inBand (c : Config) (d ref : Nat) : Bool := decide (absDiff d ref ≤ c.tolerance)

/-- CLASSIFY (R72). -/
def classify (c : Config) (d : Nat) : PulseClass :=
  if inBand c d c.pulseLow then .low
  else if inBand c d c.pulseHigh then .high
  else if inBand c d c.pulseFooter then .footer
  else .none

/-- PAIR_TO_BIT (R74): `none` is NotASymbol. -/
def pairToBit (c : Config) (d0 d1 : Nat) : Option Bool :=
  match classify c d0, classify c d1 with
  | .low, .high => some false
  | .high, .low => some true
  | _, _ => none

/-- BIT_TO_PAIR (R74): exactly the references (R47). -/
def bitToPair (c : Config) (b : Bool) : Train :=
  if b then [c.pulseHigh, c.pulseLow] else [c.pulseLow, c.pulseHigh]

/-- The trailer as it is written (R48, R77). -/
def trailer (c : Config) : Train := [c.pulseHigh, c.pulseFooter]

/-- The pair is a trailer: HIGH then FOOTER (R48, R75). -/
def isTrailer (c : Config) (d0 d1 : Nat) : Bool :=
  classify c d0 == .high && classify c d1 == .footer

/-- The command a `command` field stands for; `none` is an unknown command (R57, R82). -/
def commandOf (c : Config) (code : Nat) : Option Command :=
  if code = c.cmdOn then some .on
  else if code = c.cmdOff then some .off
  else if code = c.cmdStateQuery then some .stateQuery
  else if code = c.cmdStateInform then some .stateInform
  else none

/-- The bits of a header (R50, R51). -/
def headerBits (n proto toSys toUnit cmd : Nat) : Bits :=
  toBits n proto ++ toBits n toSys ++ toBits n toUnit ++ toBits n cmd

/-- The bits of a STATE_INFORM frame (R53, R92). -/
def informBits (n proto toSys toUnit cmd sys unit : Nat) (state : Bool) : Bits :=
  headerBits n proto toSys toUnit cmd ++ toBits n sys ++ toBits n unit ++ [state]

end Sys2Proof.Machine
end

