-- ==== Sys2Proof/Machine/AddressCodec.lean ====
section
/-! DEFINITION. The Address Codec (40_address_codec.md): DIGIT_VALUE, DIGIT_CHAR, PARSE_ADDRESS, FORMAT_ADDRESS. -/

namespace Sys2Proof.Machine

/-- The 8-bit codes `lo`, `lo + 1`, ..., `n` of them. -/
def codesFrom (lo n : Nat) : Text := (List.range n).map fun k => BitVec.ofNat 8 (lo + k)

/-- ALPHABET (R44, R66): digits, lower case, upper case, `_`, `@`. PRESUMED (log 12): the 8-bit codes are those of ASCII (G1). -/
def alphabet : Text := codesFrom 0x30 10 ++ codesFrom 0x61 26 ++ codesFrom 0x41 26 ++ [0x5F#8, 0x40#8]

/-- DIGIT_VALUE (R66): the position in the alphabet; `none` is Invalid. -/
def digitValue (c : Byte) : Option Nat := alphabet.idxOf? c

/-- DIGIT_CHAR (R66), for `v <= 63`. -/
def digitChar (v : Nat) : Byte := alphabet.getD v 0x30#8

/-- The loop of PARSE_ADDRESS (R67): left to right, radix 64 (R45). -/
def parseDigits (acc : Nat) : Text → Option Nat
  | [] => some acc
  | c :: rest =>
    match digitValue c with
    | none => none
    | some d => parseDigits (acc * 64 + d) rest

/-- PARSE_ADDRESS (R67) of a present string: tag `0a`, one to five digits, value at most ID_MAX; `none` is Invalid. -/
def parseText (c : Config) (s : Text) : Option Nat :=
  if s.length < 3 ∨ 7 < s.length then none
  else if s.take 2 ≠ [0x30#8, 0x61#8] then none
  else
    match parseDigits 0 (s.drop 2) with
    | none => none
    | some acc => if c.idMax < acc then none else some acc

/-- PARSE_ADDRESS (R67): `absent` is Invalid too. With `formatAddress` it obeys the round-trip law of R69. -/
def parseAddress (c : Config) : Option Text → Option Nat
  | none => none
  | some s => parseText c s

/-- The loop of FORMAT_ADDRESS (R68): least significant digit found first, prepended. The first argument bounds the digits. -/
def radixDigits : Nat → Nat → Text → Text
  | 0, _, digits => digits
  | k + 1, a, digits =>
    let digits' := digitChar (a % 64) :: digits
    if a / 64 = 0 then digits' else radixDigits k (a / 64) digits'

/-- FORMAT_ADDRESS (R68): the tag and the radix-64 digits. Five digits hold every Address, since `ID_MAX <= 2^30 - 1` (R6).
R69: `parseAddress c (some (formatAddress a)) = some a` for every legal `c` and every `a` from 0 to ID_MAX, by these two definitions. -/
def formatAddress (a : Nat) : Text := [0x30#8, 0x61#8] ++ radixDigits 5 a []

end Sys2Proof.Machine
end

