-- ==== Sys2Proof/WellFormed.lean ====
section
/-! DEFINITION. The checks an instruction of the table must pass in a given configuration. -/

namespace Sys2Proof

/-- A FRAME row with `n`-bit fields belongs to the instances laid out so, and its addresses are Addresses (R6 (b), R50, R87). -/
def Instr.frameWf (c : Config) (n : Nat) (addrs : List Nat) : Bool :=
  decide (c.TableLayout n) && addrs.all fun a => decide (a ≤ c.idMax)

/-- Both durations fit the port (R31). -/
def Instr.pairFits (c : Config) (d0 d1 : Nat) : Bool :=
  decide (d0 < 2 ^ c.durWidth) && decide (d1 < 2 ^ c.durWidth)

/-- Well-formed in configuration `c`: a pulse pair's durations fit the port and have the classes of its row (R47, R48), a frame belongs to the
configuration and names Addresses. Every other row has no operand and is always well-formed. -/
def Instr.wf (c : Config) : Instr → Bool
  | .opValidate | .opDecode | .opEncode | .opReserved => true
  | .rcAbsent | .rcOn | .rcOff | .rcQuery => true
  | .frameOn sys unit => frameWf c 18 [sys.toNat, unit.toNat]
  | .frameOff sys unit => frameWf c 18 [sys.toNat, unit.toNat]
  | .frameStateQuery sys unit => frameWf c 18 [sys.toNat, unit.toNat]
  | .frameStateInform toSys toUnit sys unit _ =>
    frameWf c 18 [toSys.toNat, toUnit.toNat, sys.toNat, unit.toNat]
  | .frameOnSmall sys unit => frameWf c 6 [sys.toNat, unit.toNat]
  | .frameOffSmall sys unit => frameWf c 6 [sys.toNat, unit.toNat]
  | .frameStateQuerySmall sys unit => frameWf c 6 [sys.toNat, unit.toNat]
  | .frameStateInformSmall toSys toUnit sys unit _ =>
    frameWf c 6 [toSys.toNat, toUnit.toNat, sys.toNat, unit.toNat]
  | .symBit0 d0 d1 => pairFits c d0 d1 && Machine.pairToBit c d0 d1 == some false
  | .symBit1 d0 d1 => pairFits c d0 d1 && Machine.pairToBit c d0 d1 == some true
  | .symTrailer d0 d1 => pairFits c d0 d1 && Machine.isTrailer c d0 d1
  | .stIdle | .stOk | .stInvalid | .stNoMatch | .stErrArg | .stBadOp | .stFatalSizing
  | .stFatalAlloc => true
  | .rsNone | .rsSysMissing | .rsSysInvalid | .rsUnitMissing | .rsUnitInvalid | .rsCmdMissing => true

end Sys2Proof
end

