-- ==== Sys2Proof/Decode.lean ====
section
/-! DEFINITION. The decoder of the table's codes, total, rejecting by name; then the encoder; then the table words the host asks with. -/

namespace Sys2Proof

/-- Why a code is no row of the table. -/
inductive DecodeError where
  /-- REASON codes 6 and 7 (R61). -/
  | reservedCode
  /-- Fewer bits than the frame needs (R81). -/
  | truncatedFrame
  /-- The protocol_id field is not 1, the value of the table's FRAME rows (R62 (a)). -/
  | otherProtocol
  /-- The command field is none of the four codes (R62 (b)). -/
  | unknownCommand
  /-- The pair is neither a bit symbol nor a trailer (R47, R63 (a)). -/
  | notASymbol
  /-- A duration does not fit the port (R31). -/
  | durationTooWide
  deriving DecidableEq, Repr

/-- Field `k` of a frame whose fields are `n` bits wide (R50, R51). -/
def frameField (n k : Nat) (b : Bits) : Nat := Machine.fromBits ((b.drop (k * n)).take n)

/-- The bit that follows six `n`-bit fields: the `state` of a report (R53). -/
def frameState (n : Nat) (b : Bits) : Bool := b.getD (6 * n) false

/-- OP (R58). -/
def decodeHostOp (c : BitVec 2) : Instr :=
  match c.toNat with
  | 0 => .opValidate
  | 1 => .opDecode
  | 2 => .opEncode
  | _ => .opReserved

/-- REQ_CMD (R59). -/
def decodeReqCmd (c : BitVec 2) : Instr :=
  match c.toNat with
  | 0 => .rcAbsent
  | 1 => .rcOn
  | 2 => .rcOff
  | _ => .rcQuery

/-- The FRAME rows with 18-bit fields; bits after the last field are ignored (R56). DESIGN CHOICE (log 24): the last field is the table row's, by
its command codes (R57), also where an instance's own command codes would call for more fields. -/
def decodeFrameN18 (b : Bits) : Except DecodeError Instr :=
  if b.length < 72 then .error .truncatedFrame
  else if frameField 18 0 b ≠ 1 then .error .otherProtocol
  else
    let f := fun k => BitVec.ofNat 18 (frameField 18 k b)
    match frameField 18 3 b with
    | 0 => .ok (.frameOn (f 1) (f 2))
    | 1 => .ok (.frameOff (f 1) (f 2))
    | 2 => .ok (.frameStateQuery (f 1) (f 2))
    | 3 =>
      if b.length < 109 then .error .truncatedFrame
      else .ok (.frameStateInform (f 1) (f 2) (f 4) (f 5) (frameState 18 b))
    | _ => .error .unknownCommand

/-- The FRAME rows with 6-bit fields; bits after the last field are ignored (R56). DESIGN CHOICE (log 24): the last field is the table row's, as in
`decodeFrameN18`. -/
def decodeFrameN6 (b : Bits) : Except DecodeError Instr :=
  if b.length < 24 then .error .truncatedFrame
  else if frameField 6 0 b ≠ 1 then .error .otherProtocol
  else
    let f := fun k => BitVec.ofNat 6 (frameField 6 k b)
    match frameField 6 3 b with
    | 0 => .ok (.frameOnSmall (f 1) (f 2))
    | 1 => .ok (.frameOffSmall (f 1) (f 2))
    | 2 => .ok (.frameStateQuerySmall (f 1) (f 2))
    | 3 =>
      if b.length < 37 then .error .truncatedFrame
      else .ok (.frameStateInformSmall (f 1) (f 2) (f 4) (f 5) (frameState 6 b))
    | _ => .error .unknownCommand

/-- A pair of pulses, read with the timing of configuration `c` (R47, R48). -/
def decodePulsePair (c : Config) (d0 d1 : Nat) : Except DecodeError Instr :=
  if !Instr.pairFits c d0 d1 then .error .durationTooWide
  else
    match Machine.pairToBit c d0 d1 with
    | some false => .ok (.symBit0 d0 d1)
    | some true => .ok (.symBit1 d0 d1)
    | none => if Machine.isTrailer c d0 d1 then .ok (.symTrailer d0 d1) else .error .notASymbol

/-- STATUS (R60). -/
def decodeStatus (c : BitVec 3) : Instr :=
  match c.toNat with
  | 0 => .stIdle
  | 1 => .stOk
  | 2 => .stInvalid
  | 3 => .stNoMatch
  | 4 => .stErrArg
  | 5 => .stBadOp
  | 6 => .stFatalSizing
  | _ => .stFatalAlloc

/-- REASON (R61). -/
def decodeReason (c : BitVec 3) : Except DecodeError Instr :=
  match c.toNat with
  | 0 => .ok .rsNone
  | 1 => .ok .rsSysMissing
  | 2 => .ok .rsSysInvalid
  | 3 => .ok .rsUnitMissing
  | 4 => .ok .rsUnitInvalid
  | 5 => .ok .rsCmdMissing
  | _ => .error .reservedCode

/-- The row a code stands for in its place. Only a pulse pair depends on the configuration, for its timing. -/
def decode (c : Config) : Code → Except DecodeError Instr
  | .hostOp k => .ok (decodeHostOp k)
  | .reqCmd k => .ok (decodeReqCmd k)
  | .frameN18 b => decodeFrameN18 b
  | .frameN6 b => decodeFrameN6 b
  | .pulsePair d0 d1 => decodePulsePair c d0 d1
  | .status k => .ok (decodeStatus k)
  | .reason k => decodeReason k

/-- The bits of a request row (R52): `cmd` is the code of R57. -/
def Instr.requestBits (n cmd sys unit : Nat) : Bits := Machine.headerBits n 1 sys unit cmd

/-- The bits of a report row (R53). -/
def Instr.reportBits (n toSys toUnit sys unit : Nat) (state : Bool) : Bits :=
  Machine.informBits n 1 toSys toUnit 3 sys unit state

/-- The code of a row, from the same tables of 30_encoding.md (R47 to R61). -/
def encode : Instr → Code
  | .opValidate => .hostOp 0#2
  | .opDecode => .hostOp 1#2
  | .opEncode => .hostOp 2#2
  | .opReserved => .hostOp 3#2
  | .rcAbsent => .reqCmd 0#2
  | .rcOn => .reqCmd 1#2
  | .rcOff => .reqCmd 2#2
  | .rcQuery => .reqCmd 3#2
  | .frameOn sys unit => .frameN18 (Instr.requestBits 18 0 sys.toNat unit.toNat)
  | .frameOff sys unit => .frameN18 (Instr.requestBits 18 1 sys.toNat unit.toNat)
  | .frameStateQuery sys unit => .frameN18 (Instr.requestBits 18 2 sys.toNat unit.toNat)
  | .frameStateInform toSys toUnit sys unit state =>
    .frameN18 (Instr.reportBits 18 toSys.toNat toUnit.toNat sys.toNat unit.toNat state)
  | .frameOnSmall sys unit => .frameN6 (Instr.requestBits 6 0 sys.toNat unit.toNat)
  | .frameOffSmall sys unit => .frameN6 (Instr.requestBits 6 1 sys.toNat unit.toNat)
  | .frameStateQuerySmall sys unit => .frameN6 (Instr.requestBits 6 2 sys.toNat unit.toNat)
  | .frameStateInformSmall toSys toUnit sys unit state =>
    .frameN6 (Instr.reportBits 6 toSys.toNat toUnit.toNat sys.toNat unit.toNat state)
  | .symBit0 d0 d1 => .pulsePair d0 d1
  | .symBit1 d0 d1 => .pulsePair d0 d1
  | .symTrailer d0 d1 => .pulsePair d0 d1
  | .stIdle => .status 0#3
  | .stOk => .status 1#3
  | .stInvalid => .status 2#3
  | .stNoMatch => .status 3#3
  | .stErrArg => .status 4#3
  | .stBadOp => .status 5#3
  | .stFatalSizing => .status 6#3
  | .stFatalAlloc => .status 7#3
  | .rsNone => .reason 0#3
  | .rsSysMissing => .reason 1#3
  | .rsSysInvalid => .reason 2#3
  | .rsUnitMissing => .reason 3#3
  | .rsUnitInvalid => .reason 4#3
  | .rsCmdMissing => .reason 5#3

/-- The code an instruction word of the table stands for, from its size in bits, rounded up to whole bytes, and its value.
DESIGN CHOICE (log 5): an 8-bit word is the first row of the table, in the table's order, whose register holds that number: OP for 0 to 3 and
STATUS for 4 to 7. A frame word's most significant bit is the first bit sent; a pair word's low half is the first pulse. -/
def tableCode (nbits w : Nat) : Option Code :=
  match nbits with
  | 8 =>
    if w < 4 then some (.hostOp (BitVec.ofNat 2 w))
    else if w < 8 then some (.status (BitVec.ofNat 3 w))
    else none
  | 24 => if w < 2 ^ 24 then some (.frameN6 (Machine.toBits 24 w)) else none
  | 32 => if w < 2 ^ 32 then some (.pulsePair (w % 2 ^ 16) (w / 2 ^ 16)) else none
  | 40 => if w < 2 ^ 37 then some (.frameN6 (Machine.toBits 37 w)) else none
  | 72 => if w < 2 ^ 72 then some (.frameN18 (Machine.toBits 72 w)) else none
  | 112 => if w < 2 ^ 109 then some (.frameN18 (Machine.toBits 109 w)) else none
  | _ => none

/-- The instruction this decoder reads from a word of the table. The reference timing reads a pair; the small configuration has the same. -/
def decodeTableWord (nbits w : Nat) : Option Instr :=
  match tableCode nbits w with
  | none => none
  | some k =>
    match decode Config.ref k with
    | .ok i => some i
    | .error _ => none

end Sys2Proof
end

