-- ==== Sys2Proof/Machine/State.lean ====
section
/-! DEFINITION. The state of one instance (10_state.md), its reset value (R29, R128), the reasons a step can stop. -/

namespace Sys2Proof.Machine

/-- STATUS (R60). Code 7, ST_FATAL_ALLOC, is never produced and has no value here (R117, U6, log 13). -/
inductive Status where
  | idle
  | ok
  | invalid
  | noMatch
  | errArg
  | badOp
  | fatalSizing
  deriving DecidableEq, Repr

/-- REASON (R61). Codes 6 and 7 are never produced and have no value here (U6, log 13). -/
inductive Reason where
  | none
  | sysMissing
  | sysInvalid
  | unitMissing
  | unitInvalid
  | cmdMissing
  deriving DecidableEq, Repr

/-- F_PROTO, F_TOSYS, F_TOUNIT, F_CMD: the header registers, present while F_VALID = 1 (R18). -/
structure Frame where
  proto : Nat
  toSys : Nat
  toUnit : Nat
  cmd : Nat
  deriving DecidableEq, Repr

/-- P_SYS, P_UNIT, P_STATE: the payload registers, present while P_VALID = 1 (R19). -/
structure Payload where
  sys : Nat
  unit : Nat
  state : Bool
  deriving DecidableEq, Repr

/-- The registers the host can ask to read: those R26 marks "host R", and the metadata of R25.
`poutWord`, `pinWord`, `msgSysChar` and `msgUnitChar` read one element (R35). -/
inductive HostRegister where
  | pinWord (i : Nat)
  | pinLen
  | pinOvf
  | reqSys
  | reqUnit
  | reqCmd
  | op
  | start
  | poutWord (i : Nat)
  | poutLen
  | repeatCount
  | msgSys
  | msgUnit
  | msgSysChar (i : Nat)
  | msgUnitChar (i : Nat)
  | msgState
  | msgStateValid
  | msgValid
  | status
  | reason
  | busy
  | done
  | fatal
  | metaProtocolName
  | metaDevType
  | metaHwType
  | metaMinRawLength
  | metaMaxRawLength
  | metaRepeatCount
  | metaPatternSys
  | metaPatternUnit
  deriving DecidableEq, Repr

/-- What the host does at the ports (R31, R32, R36, R128, R132, R137).
`raiseStart k` raises START; `k` of the host's next actions then fall while the operation runs (log 2). -/
inductive HostAction where
  | pinClear
  | pinPush (d : Nat)
  | writeReqSys (v : Option Text)
  | writeReqUnit (v : Option Text)
  | writeReqCmd (c : BitVec 2)
  | writeOp (c : BitVec 2)
  | raiseStart (k : Nat)
  | reset
  | read (r : HostRegister)
  deriving DecidableEq, Repr

/-- The machine stops with a fault. -/
inductive Fault where
  /-- A SYM row run on its own appends to BITS or POUT at capacity: "defined only while `len(buf)` is below the buffer's capacity"
  (00_scope.md section 5). Raised by execSymBit0, execSymBit1, execSymTrailer; safe. -/
  | appendBeyondCapacity
  deriving DecidableEq, Repr

/-- No meaning for the instruction, or a move the spec tells a model to refuse. -/
inductive Refusal where
  /-- An instruction with no meaning yet: raised by exec's arm alone; safe. -/
  | notModelled (mnemonic : String)
  /-- R6, U10: the configuration is not legal. Raised by step; safe. -/
  | illegalConfiguration
  /-- ST_FATAL_ALLOC "is reserved for it and never produced" (R117, U6), and so are the REASON codes 6 and 7 (R61, R63 (d), U6). Raised by
  execStFatalAlloc and runUnlisted; safe. -/
  | neverProduced
  /-- "The block has no builder" for a STATE_INFORM frame (R92), nor for a frame that is no row of the table (R87; log 27). Raised by the
  FRAME_STATE_INFORM meanings and unlistedFrame inside ENCODE; safe. -/
  | noBuilder
  /-- ENCODE writes bit symbols and the trailer alone (R74, R77): a pair that is neither is nothing it writes (log 27). Raised by unlistedPair
  inside ENCODE; safe. -/
  | noSymbol
  /-- A FRAME row of another configuration cannot be built by this instance (R50, R5). Raised by the FRAME request meanings inside
  ENCODE; safe. -/
  | foreignFrame
  /-- The running operation does not raise this outcome (R112). Raised by the ST meanings; safe. -/
  | outcomeOfAnotherOperation
  /-- The registers this outcome is written from hold nothing yet (R101, R105, R115). Raised by execStOk and execStErrArg; safe. -/
  | outcomeNotReached
  /-- The port is DUR_WIDTH bits wide: "a larger value cannot be presented" (U14). Raised by the host action pinPush and by unlistedPair;
  safe. -/
  | durationTooWide
  /-- "A host read ... while BUSY = 1 is not defined: a model refuses it" (R135, R26). Raised by the host action read; safe. -/
  | readWhileBusy
  /-- "A host read at or above the length is not defined: a model refuses it" (R32). Raised by the host action read; safe. -/
  | readPastLength
  /-- MSG_STATE while MSG_STATE_VALID = 0 (U4). Raised by the host action read; safe. -/
  | readOfInvalid
  deriving DecidableEq, Repr

/-- The state of one instance. -/
structure State where
  /-- The parameters of the instance (R5); no step changes them (R41). -/
  cfg : Config
  /-- PIN; PIN_LEN is its length (R11). -/
  pin : Train
  /-- PIN_OVF (R11). -/
  pinOvf : Bool
  /-- REQ_SYS (R12). -/
  reqSys : Option Text
  /-- REQ_UNIT (R12). -/
  reqUnit : Option Text
  /-- REQ_CMD (R13). -/
  reqCmd : BitVec 2
  /-- OP (R14). -/
  op : BitVec 2
  /-- START (R14). -/
  start : Bool
  /-- BITS; BIT_LEN is its length (R15). -/
  bits : Bits
  /-- The pulse index (R17 (b)). -/
  pulseIdx : Nat
  /-- CUR (R17 (a)). -/
  cur : Nat
  /-- A_SYS while A_SYS_OK = 1 (R16). -/
  aSys : Option Nat
  /-- A_UNIT while A_UNIT_OK = 1 (R16). -/
  aUnit : Option Nat
  /-- F_PROTO, F_TOSYS, F_TOUNIT, F_CMD while F_VALID = 1 (R18). -/
  frame : Option Frame
  /-- P_SYS, P_UNIT, P_STATE while P_VALID = 1 (R19). -/
  payload : Option Payload
  /-- SIZE_REQ (R19). -/
  sizeReq : Nat
  /-- POUT; POUT_LEN is its length (R20). -/
  pout : Train
  /-- REPEAT (R20). -/
  repeatCount : BitVec 5
  /-- MSG_SYS (R21). -/
  msgSys : Text
  /-- MSG_UNIT (R21). -/
  msgUnit : Text
  /-- MSG_STATE while MSG_STATE_VALID = 1 (R21). -/
  msgState : Option Bool
  /-- MSG_VALID (R21). -/
  msgValid : Bool
  /-- STATUS (R22). -/
  status : Status
  /-- REASON (R23). -/
  reason : Reason
  /-- BUSY (R24). -/
  busy : Bool
  /-- DONE (R24). -/
  done : Bool
  /-- FATAL (R24). -/
  fatal : Bool
  /-- The OP code sampled at the accepted START (R14); the model's own register (log 11). -/
  opRun : BitVec 2
  /-- How many host actions still fall inside the running operation; the model's own (log 2). -/
  hold : Nat
  /-- The host's pending actions, next one first; the model's own (log 3). -/
  host : List HostAction
  /-- A code of the table put to its component on its own; the model's own, set by no step (log 4). -/
  present : Option Code
  /-- The index of the next free value; the model's own (log 33). -/
  freeIdx : Nat
  deriving DecidableEq, Repr

/-- The reset state of an instance with configuration `c` (R29, R128): "The parameters and the META constants are not affected by reset". -/
def State.resetWith (c : Config) : State where
  cfg := c
  pin := []
  pinOvf := false
  reqSys := none
  reqUnit := none
  reqCmd := 0#2
  op := 0#2
  start := false
  bits := []
  pulseIdx := 0
  cur := 0
  aSys := none
  aUnit := none
  frame := none
  payload := none
  sizeReq := 0
  pout := []
  repeatCount := 0#5
  msgSys := []
  msgUnit := []
  msgState := none
  msgValid := false
  status := .idle
  reason := .none
  busy := false
  done := false
  fatal := false
  opRun := 0#2
  hold := 0
  host := []
  present := none
  freeIdx := 0

/-- The machine right after reset, an instance of the reference configuration (log 1). -/
def State.reset : State := State.resetWith Config.ref

end Sys2Proof.Machine
end

