-- ==== Sys2Proof/Machine/Flags.lean ====
section
/-! DEFINITION. Status and reason codes (R60, R61), which operation raises which outcome (R112), the valid bits (R16, R18, R19, R21), the command
of a request (R104). -/

namespace Sys2Proof.Machine

/-- The code of STATUS (R60). -/
def Status.code : Status → BitVec 3
  | .idle => 0#3
  | .ok => 1#3
  | .invalid => 2#3
  | .noMatch => 3#3
  | .errArg => 4#3
  | .badOp => 5#3
  | .fatalSizing => 6#3

/-- The code of REASON (R61). -/
def Reason.code : Reason → BitVec 3
  | .none => 0#3
  | .sysMissing => 1#3
  | .sysInvalid => 2#3
  | .unitMissing => 3#3
  | .unitInvalid => 4#3
  | .cmdMissing => 5#3

/-- R112's column "raised by operation". ST_IDLE is no outcome. -/
def Status.raisedBy (st : Status) (op : BitVec 2) : Bool :=
  match st with
  | .idle => false
  | .ok => op != 3#2
  | .invalid => op == 0#2
  | .noMatch => op == 1#2
  | .errArg => op == 2#2
  | .badOp => op == 3#2
  | .fatalSizing => op == 2#2

/-- A_SYS_OK (R16). -/
def State.aSysOk (s : State) : Bool := s.aSys.isSome

/-- A_UNIT_OK (R16). -/
def State.aUnitOk (s : State) : Bool := s.aUnit.isSome

/-- F_VALID (R18). -/
def State.fValid (s : State) : Bool := s.frame.isSome

/-- P_VALID (R19). -/
def State.pValid (s : State) : Bool := s.payload.isSome

/-- MSG_STATE_VALID (R21). -/
def State.msgStateValid (s : State) : Bool := s.msgState.isSome

/-- The block is idle and answers a START (R134). -/
def State.acceptsStart (s : State) : Bool := !s.busy && !s.fatal

/-- The three commands a request can name (R104); STATE_INFORM "cannot be requested". -/
inductive Request where
  | on
  | off
  | query
  deriving DecidableEq, Repr

/-- The command a REQ_CMD code maps to (R104); `none` is RC_ABSENT. -/
def requestOf (c : BitVec 2) : Option Request :=
  match c.toNat with
  | 1 => some .on
  | 2 => some .off
  | 3 => some .query
  | _ => none

/-- The command code a request writes into its frame (R57, R104). -/
def Request.code (c : Config) : Request → Nat
  | .on => c.cmdOn
  | .off => c.cmdOff
  | .query => c.cmdStateQuery

/-- The state the message of an encode echoes (R105): none for a query. -/
def Request.echo : Request → Option Bool
  | .on => some true
  | .off => some false
  | .query => none

end Sys2Proof.Machine
end

