-- ==== Sys2Proof/Machine/FrameCodec.lean ====
section
/-! DEFINITION. The Frame Codec (42_frame_codec.md): DECODE_FRAME, DECODE_STATE_INFORM, the two-phase builder and the three public builders. -/

namespace Sys2Proof.Machine

/-- The four header fields (R50), read in order with READ_FIELD; the protocol id is tested as soon as it is read (R82 (e)).
The answer is the fields, if all are read, and the cursor where reading stopped (R17, R81: a failed read does not move it). -/
def readHeader (c : Config) (b : Bits) : Option Frame × Nat :=
  match readField b 0 c.idBits with
  | none => (none, 0)
  | some (proto, k1) =>
    if proto ≠ c.protocolId then (none, k1)
    else
      match readField b k1 c.idBits with
      | none => (none, k1)
      | some (toSys, k2) =>
        match readField b k2 c.idBits with
        | none => (none, k2)
        | some (toUnit, k3) =>
          match readField b k3 c.idBits with
          | none => (none, k3)
          | some (cmd, k4) => (some ⟨proto, toSys, toUnit, cmd⟩, k4)

/-- A header that may stand in the frame registers (R18, R83, R84). -/
def Frame.acceptable (c : Config) (f : Frame) : Bool :=
  decide (f.proto = c.protocolId) && decide (f.toSys ≤ c.idMax) && decide (f.toUnit ≤ c.idMax) &&
    (commandOf c f.cmd).isSome

/-- DECODE_FRAME (R82) with the cursor it leaves: `none` when a field cannot be read, the protocol id differs, an address is above ID_MAX or
the command is unknown. DEDUCED (log 9): on `none` the cursor is where R81 leaves it, and R82 gives it no meaning. -/
def decodeFrame (c : Config) (b : Bits) : Option Frame × Nat :=
  match readHeader c b with
  | (some f, k) => if f.acceptable c then (some f, k) else (none, k)
  | (none, k) => (none, k)

/-- The three payload fields (R53) from the cursor, and the cursor where reading stopped. -/
def readPayload (c : Config) (b : Bits) (cur : Nat) : Option Payload × Nat :=
  match readField b cur c.idBits with
  | none => (none, cur)
  | some (sys, k1) =>
    match readField b k1 c.idBits with
    | none => (none, k1)
    | some (unit, k2) =>
      match readField b k2 1 with
      | none => (none, k2)
      | some (st, k3) => (some ⟨sys, unit, decide (st = 1)⟩, k3)

/-- A payload that may stand in the payload registers (R83). -/
def Payload.acceptable (c : Config) (p : Payload) : Bool :=
  decide (p.sys ≤ c.idMax) && decide (p.unit ≤ c.idMax)

/-- DECODE_STATE_INFORM (R85) with the cursor it leaves: `none` on truncation or when an address is above ID_MAX. -/
def decodeStateInform (c : Config) (b : Bits) (cur : Nat) : Option Payload × Nat :=
  match readPayload c b cur with
  | (some p, k) => if p.acceptable c then (some p, k) else (none, k)
  | (none, k) => (none, k)

/-- BUILD_SIZE (R87): the sizing pass; it returns the sum of the four field widths for every operand. -/
def buildSize (c : Config) (_cmd _sys _unit : Nat) : Nat := c.idBits + c.idBits + c.idBits + c.idBits

/-- BUILD_FILL (R87): the fill pass. -/
def buildFill (c : Config) (cmd sys unit : Nat) : Bits := headerBits c.idBits c.protocolId sys unit cmd

/-- BUILD (R87): `none` is Fatal(SizingMismatch). -/
def build (c : Config) (cmd sys unit : Nat) : Option Bits :=
  if (buildFill c cmd sys unit).length = buildSize c cmd sys unit then some (buildFill c cmd sys unit)
  else none

/-- BUILD_ON (R88). -/
def buildOn (c : Config) (sys unit : Nat) : Option Bits := build c c.cmdOn sys unit

/-- BUILD_OFF (R89). -/
def buildOff (c : Config) (sys unit : Nat) : Option Bits := build c c.cmdOff sys unit

/-- BUILD_STATE_QUERY (R90). -/
def buildStateQuery (c : Config) (sys unit : Nat) : Option Bits := build c c.cmdStateQuery sys unit

end Sys2Proof.Machine
end

