-- ==== Sys2Proof/Machine/PulseCodec.lean ====
section
/-! DEFINITION. The Pulse-Timing Codec (41_pulse_timing_codec.md): PULSE_DECODE, PULSE_ENCODE. -/

namespace Sys2Proof.Machine

/-- The pair loop of PULSE_DECODE (R75): the bits read, and whether every pair was a symbol and no pulse was left over.
It stops at the first pair that is not a symbol; the pulse index is then the number of bits read (R17 (b), log 10). -/
def readPairs (c : Config) : Train → Bits × Bool
  | [] => ([], true)
  | [_] => ([], false)
  | d0 :: d1 :: rest =>
    match pairToBit c d0 d1 with
    | none => ([], false)
    | some b => (b :: (readPairs c rest).1, (readPairs c rest).2)

/-- The last two pulses of the train are a trailer, HIGH then FOOTER (R48); false for fewer than two pulses. -/
def endsInTrailer (c : Config) (p : Train) : Bool :=
  match p.drop (p.length - 2) with
  | [d0, d1] => isTrailer c d0 d1
  | _ => false

/-- The checks of PULSE_DECODE before its loop (R75): no overflow, room for a trailer, a whole number of pairs, a good trailer, at least one
bit. -/
def trainIsWhole (c : Config) (p : Train) (ovf : Bool) : Bool :=
  !ovf && decide (2 < p.length) && decide (p.length % 2 = 0) && endsInTrailer c p

/-- The pulses before the trailer (R49). -/
def dataPulses (p : Train) : Train := p.take (p.length - 2)

/-- PULSE_DECODE (R75): `none` is Empty. -/
def pulseDecode (c : Config) (p : Train) (ovf : Bool) : Option Bits :=
  if trainIsWhole c p ovf then
    let r := readPairs c (dataPulses p)
    if r.2 then some r.1 else none
  else none

/-- Where the pulse index stands when PULSE_DECODE ends (R17 (b), log 10). -/
def pulseIndexAfterDecode (c : Config) (p : Train) (ovf : Bool) : Nat :=
  if trainIsWhole c p ovf then (readPairs c (dataPulses p)).1.length else 0

/-- PULSE_ENCODE (R77): a pair per bit, then the trailer. -/
def pulseEncode (c : Config) (b : Bits) : Train := b.flatMap (bitToPair c) ++ trailer c

end Sys2Proof.Machine
end

