-- ==== Sys2Proof/Machine/Validator.lean ====
section
/-! DEFINITION. The Pulse-Train Validator (43_validator.md). -/

namespace Sys2Proof.Machine

/-- VALIDATE (R94): true is Ok. It looks at the overflow flag and the last two pulses, and at nothing else (R95). -/
def validate (c : Config) (p : Train) (ovf : Bool) : Bool := !ovf && endsInTrailer c p

end Sys2Proof.Machine
end

