-- ==== Sys2Proof/Machine/Dispatcher.lean ====
section
/-! DEFINITION. The two entry points of the Command Dispatcher as functions of their operands (44_dispatcher.md section 1 and 2). The host
operations of Machine/HostOps.lean do the same steps over the registers. -/

namespace Sys2Proof.Machine

/-- A presentation message (00_scope.md section 7); the state is left out for a query (C1). -/
structure Message where
  sys : Text
  unit : Text
  state : Option Bool
  deriving DecidableEq, Repr

/-- What an encode returns (R102). -/
structure EncodeResult where
  train : Train
  repeatCount : Nat
  message : Message
  deriving DecidableEq, Repr

/-- How an encode ends (R102). -/
inductive EncodeOutcome where
  | sent (r : EncodeResult)
  | argError (r : Reason)
  | sizingMismatch
  deriving DecidableEq, Repr

/-- REPEAT_COUNT = 30 (R5, R106). -/
def fixedRepeat : Nat := 30

/-- The acceptance condition of a report (R100). -/
def accepted (c : Config) (f : Frame) : Bool :=
  (commandOf c f.cmd == some .stateInform) && decide (f.toSys = c.broadcast) && decide (f.toUnit = c.broadcast)

/-- The message of a report (R101). -/
def reportMessage (p : Payload) : Message := ⟨formatAddress p.sys, formatAddress p.unit, some p.state⟩

/-- Steps 2 to 5 of DECODE_INCOMING (R98) on a bit sequence. -/
def decodeReport (c : Config) (b : Bits) : Option Message :=
  match decodeFrame c b with
  | (some f, cur) =>
    if accepted c f then
      match decodeStateInform c b cur with
      | (some p, _) => some (reportMessage p)
      | (none, _) => none
    else none
  | (none, _) => none

/-- DECODE_INCOMING (R98): `none` is NoMatch. -/
def decodeIncoming (c : Config) (p : Train) (ovf : Bool) : Option Message :=
  match pulseDecode c p ovf with
  | none => none
  | some b => decodeReport c b

/-- The builder a request names (R102 step 3). -/
def buildFor (c : Config) (r : Request) (sys unit : Nat) : Option Bits :=
  match r with
  | .on => buildOn c sys unit
  | .off => buildOff c sys unit
  | .query => buildStateQuery c sys unit

/-- The message of an encode (R105): the echoed addresses come from the formatter. -/
def requestMessage (r : Request) (sys unit : Nat) : Message := ⟨formatAddress sys, formatAddress unit, r.echo⟩

/-- ENCODE_OUTGOING (R102), the argument checks in the order of R103. -/
def encodeOutgoing (c : Config) (reqSys reqUnit : Option Text) (reqCmd : BitVec 2) : EncodeOutcome :=
  if reqSys = none then .argError .sysMissing
  else
    match parseAddress c reqSys with
    | none => .argError .sysInvalid
    | some sys =>
      if reqUnit = none then .argError .unitMissing
      else
        match parseAddress c reqUnit with
        | none => .argError .unitInvalid
        | some unit =>
          match requestOf reqCmd with
          | none => .argError .cmdMissing
          | some r =>
            match buildFor c r sys unit with
            | none => .sizingMismatch
            | some b => .sent ⟨pulseEncode c b, fixedRepeat, requestMessage r sys unit⟩

end Sys2Proof.Machine
end

