-- ==== Sys2Proof/Machine/Ops.lean ====
section
/-! DEFINITION. The named operations over the registers and buffers: what an accepted START clears, the one way an operation ends in a failure,
the messages, and the steps the operations share. -/

namespace Sys2Proof.Machine

/-- Working state at its cleared values (R27, R29). -/
def clearWorking (s : State) : State :=
  { s with bits := [], pulseIdx := 0, cur := 0, aSys := none, aUnit := none, frame := none, payload := none, sizeReq := 0 }

/-- Output state other than STATUS and REASON at its cleared values (R27, R29). -/
def clearOutputs (s : State) : State :=
  { s with pout := [], repeatCount := 0#5, msgSys := [], msgUnit := [], msgState := none, msgValid := false }

/-- An accepted START (R27, 44_dispatcher.md section 3): working and output state cleared, STATUS and REASON cleared, BUSY set, DONE cleared,
the operation code sampled (R14). FATAL is not cleared (R29). -/
def acceptStart (op : BitVec 2) (s : State) : State :=
  { clearOutputs (clearWorking s) with status := .idle, reason := .none, busy := true, done := false, opRun := op }

/-- The end of an operation (R22, R24): STATUS written, BUSY cleared, DONE set. -/
def endOperation (st : Status) (s : State) : State := { s with status := st, busy := false, done := true }

/-- What the block writes when an operation ends in a failure: the one entry of 60_exceptions.md (R121, R122).
Outputs are at their cleared values, REASON is kept only with ST_ERR_ARG (R23), FATAL is set by ST_FATAL_SIZING and kept otherwise (R116, R24). -/
def failWith (st : Status) (s : State) : State :=
  endOperation st
    { clearOutputs s with
      reason := if st = .errArg then s.reason else .none
      fatal := s.fatal || decide (st = .fatalSizing) }

/-- An argument error with its reason (R115, R122). -/
def failArgument (r : Reason) (s : State) : State := failWith .errArg { s with reason := r }

/-- A train that does not decode: BIT_LEN is 0 (R75), so the cursor, never above BIT_LEN (R17), is 0 too, and the operation ends in
ST_NOMATCH (R114). -/
def failEmpty (s : State) : State := failWith .noMatch { s with bits := [], cur := 0 }

/-- The builder's two passes disagree (R116): SIZE_REQ stands, the operation ends in ST_FATAL_SIZING. -/
def failSizing (size : Nat) (s : State) : State := failWith .fatalSizing { s with sizeReq := size }

/-- An operation ends in ST_OK (R112), REASON 0 (R23). -/
def succeed (s : State) : State := endOperation .ok { s with reason := .none }

/-- The five message registers, written together (R21). -/
def writeMessage (m : Message) (s : State) : State :=
  { s with msgSys := m.sys, msgUnit := m.unit, msgState := m.state, msgValid := true }

/-- The successful end of a decode (R101, R108). -/
def deliverReport (p : Payload) (s : State) : State := succeed (writeMessage (reportMessage p) s)

/-- The successful end of an encode (R105, R106, R109); POUT holds the train already. -/
def deliverRequest (r : Request) (sys unit : Nat) (s : State) : State :=
  succeed (writeMessage (requestMessage r sys unit) { s with repeatCount := BitVec.ofNat 5 fixedRepeat })

/-- Step 4 of a decode: the payload behind the header (R85, R98), and the message. -/
def readReport (s : State) : State :=
  let r := decodeStateInform s.cfg s.bits s.cur
  let s' := { s with payload := r.1, cur := r.2 }
  match r.1 with
  | none => failWith .noMatch s'
  | some p => deliverReport p s'

/-- Steps 2 to 5 of a decode (R98) on the bits that stand in BITS. -/
def readFrame (s : State) : State :=
  let r := decodeFrame s.cfg s.bits
  let s' := { s with frame := r.1, cur := r.2 }
  match r.1 with
  | none => failWith .noMatch s'
  | some f => if accepted s.cfg f then readReport s' else failWith .noMatch s'

/-- Step 1 of a decode (R98): PULSE_DECODE into BITS (R75), then the frame. -/
def readTrain (s : State) : State :=
  let s' := { s with pulseIdx := pulseIndexAfterDecode s.cfg s.pin s.pinOvf }
  match pulseDecode s.cfg s.pin s.pinOvf with
  | none => failEmpty s'
  | some b => readFrame { s' with bits := b }

/-- A frame whose bits are given, read on the decode path: the bits stand in BITS as PULSE_DECODE leaves them. A frame longer than BIT_CAP cannot,
since its train overflows PIN (R31, R75). DESIGN CHOICE (log 34): the given bits come from no train, so PIN_OVF is not looked at. -/
def readGivenFrame (b : Bits) (s : State) : State :=
  if b.length ≤ s.cfg.bitCap then readFrame { s with bits := b, pulseIdx := b.length }
  else failEmpty s

/-- The register writes of a builder (R87). -/
def loadFrame (r : Request) (sys unit : Nat) (b : Bits) (s : State) : State :=
  { s with
    sizeReq := buildSize s.cfg (r.code s.cfg) sys unit
    bits := b
    frame := some ⟨s.cfg.protocolId, sys, unit, r.code s.cfg⟩ }

/-- A builder over the registers (R87 to R90). -/
def buildRequest (r : Request) (sys unit : Nat) (s : State) : State :=
  match buildFor s.cfg r sys unit with
  | none => failSizing (buildSize s.cfg (r.code s.cfg) sys unit) s
  | some b => loadFrame r sys unit b s

/-- The Address a builder works with where its operand is `a`: `a` itself when it is one. R87 states no result for an operand above ID_MAX: the
address is then free value `k`, of which R18 says only that the frame registers hold an Address.
DESIGN CHOICE (log 33). -/
def builtAddress (k a : Nat) (s : State) : Nat := if a ≤ s.cfg.idMax then a else Config.freeValue k % (s.cfg.idMax + 1)

/-- A builder whose operands stand in fields of N bits (R87 to R90): every effect is R87's, with a free Address for an operand that is no
Address; the two free values used are then used up (log 33). -/
def buildGiven (r : Request) (sys unit : Nat) (s : State) : State :=
  if sys ≤ s.cfg.idMax ∧ unit ≤ s.cfg.idMax then buildRequest r sys unit s
  else buildRequest r (builtAddress s.freeIdx sys s) (builtAddress (s.freeIdx + 1) unit s) { s with freeIdx := s.freeIdx + 2 }

/-- PULSE_ENCODE over the registers (R77). -/
def emitTrain (s : State) : State := { s with pout := pulseEncode s.cfg s.bits, pulseIdx := s.bits.length }

/-- Steps 3 to 5 of an encode (R102): build, encode, deliver. -/
def sendRequest (r : Request) (sys unit : Nat) (s : State) : State :=
  match buildFor s.cfg r sys unit with
  | none => failSizing (buildSize s.cfg (r.code s.cfg) sys unit) s
  | some b => deliverRequest r sys unit (emitTrain (loadFrame r sys unit b s))

/-- Step 2 of an encode (R102, R104): both addresses are parsed. -/
def mapCommand (sys unit : Nat) (s : State) : State :=
  match requestOf s.reqCmd with
  | none => failArgument .cmdMissing s
  | some r => sendRequest r sys unit s

/-- Step 1 of an encode, the unitcode (R102, R103). -/
def parseUnit (sys : Nat) (s : State) : State :=
  if s.reqUnit = none then failArgument .unitMissing s
  else
    match parseAddress s.cfg s.reqUnit with
    | none => failArgument .unitInvalid s
    | some unit => mapCommand sys unit { s with aUnit := some unit }

/-- Step 1 of an encode, the systemcode (R102, R103). -/
def parseSys (s : State) : State :=
  if s.reqSys = none then failArgument .sysMissing s
  else
    match parseAddress s.cfg s.reqSys with
    | none => failArgument .sysInvalid s
    | some sys => parseUnit sys { s with aSys := some sys }

/-- The outcome of an operation's code that works on the running operation alone. The block never acts without a start from the host (R4):
with BUSY = 0 nothing changes (log 4). -/
def whileBusy (s : State) (body : Host.Outcome State Fault Refusal) : Host.Outcome State Fault Refusal :=
  if s.busy then body else .next s

/-- One turn of PULSE_DECODE's loop on a given pair (R74, R75): the bit is appended to BITS. Append is defined below capacity only.
DESIGN CHOICE (log 34): the given pair comes from no train, so PIN_OVF is not looked at. -/
def readPair (d0 d1 : Nat) (s : State) : Host.Outcome State Fault Refusal :=
  match pairToBit s.cfg d0 d1 with
  | none => .next (failEmpty s)
  | some b =>
    if s.bits.length < s.cfg.bitCap then .next { s with bits := s.bits ++ [b], pulseIdx := s.pulseIdx + 1 }
    else .fault .appendBeyondCapacity

/-- The trailer at the end of a train being decoded (R75): it carries no bit, and a train of the trailer alone is Empty.
DESIGN CHOICE (log 29): a trailer put alone leaves no record, so a bit symbol put alone behind it is read as the next pair of BITS; in a train, which
OP_DECODE reads whole, a footer in the middle is Empty (R75 (d)). DESIGN CHOICE (log 34): PIN_OVF is not looked at. -/
def readTrailer (d0 d1 : Nat) (s : State) : Host.Outcome State Fault Refusal :=
  if isTrailer s.cfg d0 d1 && !s.bits.isEmpty then .next s else .next (failEmpty s)

/-- Pulses appended to POUT (R77), which advances the pulse index by the bits they carry. Append is defined below capacity only. -/
def writePulses (p : Train) (carried : Nat) (s : State) : Host.Outcome State Fault Refusal :=
  if s.pout.length + p.length ≤ s.cfg.poutCap then
    .next { s with pout := s.pout ++ p, pulseIdx := s.pulseIdx + carried }
  else .fault .appendBeyondCapacity

/-- A FRAME request row (R88 to R90) inside the running operation. Inside ENCODE it is built; inside DECODE its bits are read (R82) and the dispatcher
answers ST_NOMATCH (R100); VALIDATE and the reserved operation look at no frame (R95, R110). `n` is the row's field width and `k` its command
code (R57). DESIGN CHOICE (logs 19, 24): DECODE reads the row's own bits with the instance's fields and command codes, so an instance whose own code `k`
calls for a payload finds none, and answers ST_NOMATCH. -/
def frameRequest (n k : Nat) (r : Request) (sys unit : Nat) (s : State) : Host.Outcome State Fault Refusal :=
  whileBusy s <|
    match s.opRun.toNat with
    | 1 => .next (readGivenFrame (Instr.requestBits n k sys unit) s)
    | 2 =>
      if ¬ s.cfg.TableLayout n then .refused .foreignFrame else .next (buildGiven r sys unit s)
    | _ => .next s

/-- A FRAME_STATE_INFORM row (R85) inside the running operation. Inside DECODE its bits are read: header R82, acceptance R100, payload R85,
message R101. The block has no builder for it (R92). -/
def frameReport (n toSys toUnit sys unit : Nat) (state : Bool) (s : State) : Host.Outcome State Fault Refusal :=
  whileBusy s <|
    match s.opRun.toNat with
    | 1 => .next (readGivenFrame (Instr.reportBits n toSys toUnit sys unit state) s)
    | 2 => .refused .noBuilder
    | _ => .next s

/-- A frame that is no row of the table (another protocol, an unknown command, too few bits: R62, R84) inside the running operation.
DECODE reads its bits as it reads any frame, so that it "ends the operation with `ST_NOMATCH`" (R62); VALIDATE and the reserved operation look at no
frame (R95, R110). DESIGN CHOICE (log 27): the spec has no port for a frame alone, and inside ENCODE, which has no builder for it (R87), it
is refused. -/
def unlistedFrame (b : Bits) (s : State) : Host.Outcome State Fault Refusal :=
  whileBusy s <|
    match s.opRun.toNat with
    | 1 => .next (readGivenFrame b s)
    | 2 => .refused .noBuilder
    | _ => .next s

/-- A bit symbol (R74) inside the running operation: read by DECODE, written by ENCODE as the exact references (R77). VALIDATE looks at the last
two pulses alone (R95). DESIGN CHOICE (log 29): a symbol put alone behind a trailer put alone is read or written as any other. -/
def bitSymbol (b : Bool) (d0 d1 : Nat) (s : State) : Host.Outcome State Fault Refusal :=
  whileBusy s <|
    match s.opRun.toNat with
    | 1 => readPair d0 d1 s
    | 2 => writePulses (bitToPair s.cfg b) 1 s
    | _ => .next s

/-- The trailer (R48, R75) inside the running operation. DESIGN CHOICE (log 29): no order is kept among symbols put alone, so pulses may follow a
trailer that was read or written so. -/
def trailerSymbol (d0 d1 : Nat) (s : State) : Host.Outcome State Fault Refusal :=
  whileBusy s <|
    match s.opRun.toNat with
    | 1 => readTrailer d0 d1 s
    | 2 => writePulses (trailer s.cfg) 0 s
    | _ => .next s

/-- A pair that is neither a bit symbol nor a trailer (R63 (a)) inside the running operation. DECODE's loop finds no symbol and the train is
Empty (R75); VALIDATE looks at no pair of its own (R95). DESIGN CHOICE (log 27): the spec has no port for a pair alone, and inside ENCODE,
which writes symbols and the trailer only (R77), it is refused. A duration too wide for the port cannot be presented (U14). -/
def unlistedPair (d0 d1 : Nat) (s : State) : Host.Outcome State Fault Refusal :=
  if Instr.pairFits s.cfg d0 d1 then
    whileBusy s <|
      match s.opRun.toNat with
      | 1 => readPair d0 d1 s
      | 2 => .refused .noSymbol
      | _ => .next s
  else .refused .durationTooWide

/-- The running operation ends in a failure outcome it raises (R112, R121, R122).
DESIGN CHOICE (log 32): an outcome put alone is taken as it stands; the inputs its rule judges are not looked at again. -/
def endInFailure (st : Status) (s : State) : Host.Outcome State Fault Refusal :=
  whileBusy s <|
    if st.raisedBy s.opRun then .next (failWith st s) else .refused .outcomeOfAnotherOperation

/-- The running operation ends in ST_OK, its outputs written from the registers its rule names (R101, R105, R106, R107).
DESIGN CHOICE (log 31): inside ENCODE, R109 writes the whole train first; ST_OK put alone leaves POUT as it stands, empty or partial too;
inside VALIDATE (log 32), R107 judges PIN first, and ST_OK put alone ends it whatever stands in PIN. -/
def endInSuccess (s : State) : Host.Outcome State Fault Refusal :=
  whileBusy s <|
    match s.opRun.toNat with
    | 0 => .next (succeed s)
    | 1 =>
      match s.payload with
      | some p => .next (deliverReport p s)
      | none => .refused .outcomeNotReached
    | 2 =>
      match s.aSys, s.aUnit, requestOf s.reqCmd with
      | some sys, some unit, some r => .next (deliverRequest r sys unit s)
      | _, _, _ => .refused .outcomeNotReached
    | _ => .refused .outcomeOfAnotherOperation

/-- The reason of an argument error is recorded (R115); the operation goes on to its end.
DESIGN CHOICE (log 28): R115 gives reasons to ENCODE alone; inside another operation the code is recorded just so, and that operation's end
clears it (R23, R121). -/
def recordReason (r : Reason) (s : State) : Host.Outcome State Fault Refusal :=
  whileBusy s (.next { s with reason := r })

/-- A host write of REQ_CMD (R13, R26); ignored while BUSY = 1 (R133). -/
def writeReqCmd (c : BitVec 2) (s : State) : State := if s.busy then s else { s with reqCmd := c }

/-- A START with operation code `op` (44_dispatcher.md section 3): accepted, the operation run to its end, in one step (R36, R138). Ignored
while BUSY = 1 (R134) and while FATAL = 1, when "no register changes" (R124). -/
def startOperation (op : BitVec 2) (run : State → State) (s : State) : Host.Outcome State Fault Refusal :=
  if s.acceptsStart then .next (run (acceptStart op s)) else .next s

end Sys2Proof.Machine
end

