-- ==== Sys2Proof/Machine/Frames.lean ====
section
/-! DEFINITION. The FRAME rows of both field widths (R85, R88, R89, R90). -/

namespace Sys2Proof.Machine

/-- FRAME_ON (R88). -/
def execFrameOn (sys unit : BitVec 18) (s : State) : Host.Outcome State Fault Refusal :=
  frameRequest 18 0 .on sys.toNat unit.toNat s

/-- FRAME_OFF (R89). -/
def execFrameOff (sys unit : BitVec 18) (s : State) : Host.Outcome State Fault Refusal :=
  frameRequest 18 1 .off sys.toNat unit.toNat s

/-- FRAME_STATE_QUERY (R90). -/
def execFrameStateQuery (sys unit : BitVec 18) (s : State) : Host.Outcome State Fault Refusal :=
  frameRequest 18 2 .query sys.toNat unit.toNat s

/-- FRAME_STATE_INFORM (R85). -/
def execFrameStateInform (toSys toUnit sys unit : BitVec 18) (state : Bool) (s : State) :
    Host.Outcome State Fault Refusal :=
  frameReport 18 toSys.toNat toUnit.toNat sys.toNat unit.toNat state s

/-- FRAME_ON_SMALL (R88). -/
def execFrameOnSmall (sys unit : BitVec 6) (s : State) : Host.Outcome State Fault Refusal :=
  frameRequest 6 0 .on sys.toNat unit.toNat s

/-- FRAME_OFF_SMALL (R89). -/
def execFrameOffSmall (sys unit : BitVec 6) (s : State) : Host.Outcome State Fault Refusal :=
  frameRequest 6 1 .off sys.toNat unit.toNat s

/-- FRAME_STATE_QUERY_SMALL (R90). -/
def execFrameStateQuerySmall (sys unit : BitVec 6) (s : State) : Host.Outcome State Fault Refusal :=
  frameRequest 6 2 .query sys.toNat unit.toNat s

/-- FRAME_STATE_INFORM_SMALL (R85). -/
def execFrameStateInformSmall (toSys toUnit sys unit : BitVec 6) (state : Bool) (s : State) :
    Host.Outcome State Fault Refusal :=
  frameReport 6 toSys.toNat toUnit.toNat sys.toNat unit.toNat state s

end Sys2Proof.Machine
end

