-- ==== Sys2Proof/Machine/HostOps.lean ====
section
/-! DEFINITION. The HOST_OP rows (44_dispatcher.md section 3): OP_VALIDATE, OP_DECODE, OP_ENCODE, OP_RESERVED. -/

namespace Sys2Proof.Machine

/-- The body of OP_VALIDATE (R107). -/
def runValidate (s : State) : State :=
  if validate s.cfg s.pin s.pinOvf then succeed s else failWith .invalid s

/-- The body of OP_DECODE (R108): the validator's gate, then DECODE_INCOMING. From an accepted START BITS is empty when the gate rejects.
DESIGN CHOICE (log 30): when symbols put alone have appended bits meanwhile, a rejecting gate skips PULSE_DECODE and leaves those bits in BITS. -/
def runDecode (s : State) : State :=
  if validate s.cfg s.pin s.pinOvf then readTrain s else failWith .noMatch s

/-- The body of OP_ENCODE (R109). -/
def runEncode (s : State) : State := parseSys s

/-- The body of the reserved operation (R110): nothing is performed. -/
def runReserved (s : State) : State := failWith .badOp s

/-- The body of the operation whose code was sampled. DESIGN CHOICE (log 30): where codes put alone have acted on the running operation, its
body still runs whole, and what it does not write stays as those codes left it. -/
def runOperation (s : State) : State :=
  match s.opRun.toNat with
  | 0 => runValidate s
  | 1 => runDecode s
  | 2 => runEncode s
  | _ => runReserved s

/-- OP_VALIDATE (R107). -/
def execOpValidate (s : State) : Host.Outcome State Fault Refusal := startOperation 0#2 runValidate s

/-- OP_DECODE (R108). -/
def execOpDecode (s : State) : Host.Outcome State Fault Refusal := startOperation 1#2 runDecode s

/-- OP_ENCODE (R109). -/
def execOpEncode (s : State) : Host.Outcome State Fault Refusal := startOperation 2#2 runEncode s

/-- OP_RESERVED (R110, R118). -/
def execOpReserved (s : State) : Host.Outcome State Fault Refusal := startOperation 3#2 runReserved s

end Sys2Proof.Machine
end

