-- ==== Sys2Proof/Machine/Outcomes.lean ====
section
/-! DEFINITION. The STATUS rows (R60, R112) and the REASON rows (R61, R115): how the running operation ends. -/

namespace Sys2Proof.Machine

/-- ST_IDLE (R60): no operation has ended since the last accepted START; the value that START writes (R27). It ends nothing. -/
def execStIdle (s : State) : Host.Outcome State Fault Refusal := whileBusy s (.next { s with status := .idle })

/-- ST_OK (R112). -/
def execStOk (s : State) : Host.Outcome State Fault Refusal := endInSuccess s

/-- ST_INVALID (R113). -/
def execStInvalid (s : State) : Host.Outcome State Fault Refusal := endInFailure .invalid s

/-- ST_NOMATCH (R114). -/
def execStNoMatch (s : State) : Host.Outcome State Fault Refusal := endInFailure .noMatch s

/-- ST_ERR_ARG (R115): every argument error has a reason, recorded before the end. -/
def execStErrArg (s : State) : Host.Outcome State Fault Refusal :=
  whileBusy s <|
    if s.opRun = 2#2 ∧ s.reason = .none then .refused .outcomeNotReached else endInFailure .errArg s

/-- ST_BAD_OP (R118). -/
def execStBadOp (s : State) : Host.Outcome State Fault Refusal := endInFailure .badOp s

/-- ST_FATAL_SIZING (R116): FATAL is set. -/
def execStFatalSizing (s : State) : Host.Outcome State Fault Refusal := endInFailure .fatalSizing s

/-- ST_FATAL_ALLOC (R117): "code 7 is reserved for it and never produced"; U6 tells a model to refuse. -/
def execStFatalAlloc (_s : State) : Host.Outcome State Fault Refusal := .refused .neverProduced

/-- RS_NONE (R61). -/
def execRsNone (s : State) : Host.Outcome State Fault Refusal := recordReason .none s

/-- RS_SYS_MISSING (R61, R115). -/
def execRsSysMissing (s : State) : Host.Outcome State Fault Refusal := recordReason .sysMissing s

/-- RS_SYS_INVALID (R61, R115). -/
def execRsSysInvalid (s : State) : Host.Outcome State Fault Refusal := recordReason .sysInvalid s

/-- RS_UNIT_MISSING (R61, R115). -/
def execRsUnitMissing (s : State) : Host.Outcome State Fault Refusal := recordReason .unitMissing s

/-- RS_UNIT_INVALID (R61, R115). -/
def execRsUnitInvalid (s : State) : Host.Outcome State Fault Refusal := recordReason .unitInvalid s

/-- RS_CMD_MISSING (R61, R115). -/
def execRsCmdMissing (s : State) : Host.Outcome State Fault Refusal := recordReason .cmdMissing s

end Sys2Proof.Machine
end

