-- ==== Sys2Proof/Machine/Requests.lean ====
section
/-! DEFINITION. The REQ_CMD rows (R59, R104): the host puts the code into REQ_CMD, from where ENCODE maps it to a command. -/

namespace Sys2Proof.Machine

/-- RC_ABSENT (R59): no command option given. -/
def execRcAbsent (s : State) : Host.Outcome State Fault Refusal := .next (writeReqCmd 0#2 s)

/-- RC_ON (R59): option on. -/
def execRcOn (s : State) : Host.Outcome State Fault Refusal := .next (writeReqCmd 1#2 s)

/-- RC_OFF (R59): option off. -/
def execRcOff (s : State) : Host.Outcome State Fault Refusal := .next (writeReqCmd 2#2 s)

/-- RC_QUERY (R59): option query. -/
def execRcQuery (s : State) : Host.Outcome State Fault Refusal := .next (writeReqCmd 3#2 s)

end Sys2Proof.Machine
end

