-- ==== Sys2Proof/Machine/Symbols.lean ====
section
/-! DEFINITION. The PULSE_PAIR rows (R47, R48, R74, R75, R77). -/

namespace Sys2Proof.Machine

/-- SYM_BIT0 (R74). -/
def execSymBit0 (d0 d1 : Nat) (s : State) : Host.Outcome State Fault Refusal := bitSymbol false d0 d1 s

/-- SYM_BIT1 (R74). -/
def execSymBit1 (d0 d1 : Nat) (s : State) : Host.Outcome State Fault Refusal := bitSymbol true d0 d1 s

/-- SYM_TRAILER (R75). -/
def execSymTrailer (d0 d1 : Nat) (s : State) : Host.Outcome State Fault Refusal := trailerSymbol d0 d1 s

end Sys2Proof.Machine
end

