-- ==== Sys2Proof/Machine/Dispatch.lean ====
section
/-! DEFINITION. One arm per row of the table. -/

namespace Sys2Proof.Machine

def exec (i : Instr) (s : State) : Host.Outcome State Fault Refusal :=
  match i with
  | .opValidate => Sys2Proof.Machine.execOpValidate s
  | .opDecode => Sys2Proof.Machine.execOpDecode s
  | .opEncode => Sys2Proof.Machine.execOpEncode s
  | .opReserved => Sys2Proof.Machine.execOpReserved s
  | .rcAbsent => Sys2Proof.Machine.execRcAbsent s
  | .rcOn => Sys2Proof.Machine.execRcOn s
  | .rcOff => Sys2Proof.Machine.execRcOff s
  | .rcQuery => Sys2Proof.Machine.execRcQuery s
  | .frameOn sys unit => Sys2Proof.Machine.execFrameOn sys unit s
  | .frameOff sys unit => Sys2Proof.Machine.execFrameOff sys unit s
  | .frameStateQuery sys unit => Sys2Proof.Machine.execFrameStateQuery sys unit s
  | .frameStateInform toSys toUnit sys unit state => Sys2Proof.Machine.execFrameStateInform toSys toUnit sys unit state s
  | .frameOnSmall sys unit => Sys2Proof.Machine.execFrameOnSmall sys unit s
  | .frameOffSmall sys unit => Sys2Proof.Machine.execFrameOffSmall sys unit s
  | .frameStateQuerySmall sys unit => Sys2Proof.Machine.execFrameStateQuerySmall sys unit s
  | .frameStateInformSmall toSys toUnit sys unit state => Sys2Proof.Machine.execFrameStateInformSmall toSys toUnit sys unit state s
  | .symBit0 d0 d1 => Sys2Proof.Machine.execSymBit0 d0 d1 s
  | .symBit1 d0 d1 => Sys2Proof.Machine.execSymBit1 d0 d1 s
  | .symTrailer d0 d1 => Sys2Proof.Machine.execSymTrailer d0 d1 s
  | .stIdle => Sys2Proof.Machine.execStIdle s
  | .stOk => Sys2Proof.Machine.execStOk s
  | .stInvalid => Sys2Proof.Machine.execStInvalid s
  | .stNoMatch => Sys2Proof.Machine.execStNoMatch s
  | .stErrArg => Sys2Proof.Machine.execStErrArg s
  | .stBadOp => Sys2Proof.Machine.execStBadOp s
  | .stFatalSizing => Sys2Proof.Machine.execStFatalSizing s
  | .stFatalAlloc => Sys2Proof.Machine.execStFatalAlloc s
  | .rsNone => Sys2Proof.Machine.execRsNone s
  | .rsSysMissing => Sys2Proof.Machine.execRsSysMissing s
  | .rsSysInvalid => Sys2Proof.Machine.execRsSysInvalid s
  | .rsUnitMissing => Sys2Proof.Machine.execRsUnitMissing s
  | .rsUnitInvalid => Sys2Proof.Machine.execRsUnitInvalid s
  | .rsCmdMissing => Sys2Proof.Machine.execRsCmdMissing s

end Sys2Proof.Machine
end

