-- ==== Sys2Proof/Machine/Metadata.lean ====
section
/-! DEFINITION. The static metadata (R25, R111): hardwired functions of the configuration. -/

namespace Sys2Proof.Machine

/-- META_DEVTYPE: one value in scope (R25). -/
inductive DeviceType where
  | switch
  deriving DecidableEq, Repr

/-- META_HWTYPE: one value in scope (R25). -/
inductive HardwareType where
  | shortRangeSubGhzRadio
  deriving DecidableEq, Repr

/-- META_PATTERN_SYS and META_PATTERN_UNIT (R25): the pattern of R43 in the character codes of R44 and of ASCII for the rest (log 12).
0x7B and 0x7D are the two braces. -/
def addressPattern : Text :=
  (['^', '0', 'a', '[', '0', '-', '9', 'a', '-', 'z', 'A', '-', 'Z', '_', '@', ']'].map fun c => BitVec.ofNat 8 c.toNat) ++
    [0x7B#8, 0x31#8, 0x2C#8, 0x35#8, 0x7D#8, 0x24#8]

/-- META_REPEAT_COUNT (R25). -/
def metaRepeatCount : Nat := 30

/-- META_MIN_RAW_LENGTH (R25). -/
def metaMinRawLength (c : Config) : Nat := 8 * c.idBits + 2

/-- META_MAX_RAW_LENGTH (R25). -/
def metaMaxRawLength (c : Config) : Nat := 20 * c.idBits + 2

end Sys2Proof.Machine
end

