-- ==== Sys2Proof/Machine/HostPort.lean ====
section
/-! DEFINITION. What the host does at the ports: loading (R31), writing (R26), reading (R32, R36, R111, R135), reset (R128, R129). -/

namespace Sys2Proof.Machine

/-- PIN_CLEAR (R31); ignored while BUSY = 1 (R133). -/
def pinClear (s : State) : State := if s.busy then s else { s with pin := [], pinOvf := false }

/-- PIN_PUSH of a duration that fits the port (R31); ignored while BUSY = 1 (R133). -/
def pinPush (d : Nat) (s : State) : State :=
  if s.busy then s
  else if s.pin.length < s.cfg.pinCap then { s with pin := s.pin ++ [d] }
  else { s with pinOvf := true }

/-- A whole train at once (R31: "A model may equally take the whole train as one list"). -/
def loadTrain (p : Train) (s : State) : State :=
  { s with pin := p.take s.cfg.pinCap, pinOvf := decide (s.cfg.pinCap < p.length) }

/-- A host write of REQ_SYS (R12); ignored while BUSY = 1 (R133). -/
def writeReqSys (v : Option Text) (s : State) : State := if s.busy then s else { s with reqSys := v }

/-- A host write of REQ_UNIT (R12); ignored while BUSY = 1 (R133). -/
def writeReqUnit (v : Option Text) (s : State) : State := if s.busy then s else { s with reqUnit := v }

/-- A host write of OP (R14); ignored while BUSY = 1 (R133). -/
def writeOp (c : BitVec 2) (s : State) : State := if s.busy then s else { s with op := c }

/-- The host raises START (R14); ignored while BUSY = 1 (R134). `k` of its next actions fall while the operation runs (log 2). -/
def raiseStart (k : Nat) (s : State) : State := if s.busy then s else { s with start := true, hold := k }

/-- Reset (R128, R129): the operation is abandoned, without DONE. The configuration stays; so do the host's own pending actions (log 26) and
the index of the next free value, which no reset makes to repeat (log 33). -/
def resetInstance (s : State) : State := { State.resetWith s.cfg with host := s.host, freeIdx := s.freeIdx }

/-- What a host read gives. -/
inductive HostValue where
  | number (n : Nat)
  | flag (b : Bool)
  | text (t : Text)
  | optionalText (t : Option Text)
  | device (d : DeviceType)
  | hardware (h : HardwareType)
  deriving DecidableEq, Repr

/-- A read that is defined only while BUSY = 0 (R26, R135). -/
def readIdle (s : State) (v : Except Refusal HostValue) : Except Refusal HostValue :=
  if s.busy then .error .readWhileBusy else v

/-- One element below the length; "a host read at or above the length is not defined: a model refuses it" (R32). -/
def readElement {α : Type} (l : List α) (i : Nat) (f : α → HostValue) : Except Refusal HostValue :=
  match l[i]? with
  | some x => .ok (f x)
  | none => .error .readPastLength

/-- A host read (R26, R36): its value, or why a model refuses it. It changes nothing.
DEDUCED (log 15): BUSY, DONE and FATAL can be read at any time, since the host observes `DONE` (R39 (b), R119); the metadata too (R111). -/
def hostRead (r : HostRegister) (s : State) : Except Refusal HostValue :=
  match r with
  | .pinWord i => readIdle s (readElement s.pin i .number)
  | .pinLen => readIdle s (.ok (.number s.pin.length))
  | .pinOvf => readIdle s (.ok (.flag s.pinOvf))
  | .reqSys => readIdle s (.ok (.optionalText s.reqSys))
  | .reqUnit => readIdle s (.ok (.optionalText s.reqUnit))
  | .reqCmd => readIdle s (.ok (.number s.reqCmd.toNat))
  | .op => readIdle s (.ok (.number s.op.toNat))
  | .start => readIdle s (.ok (.flag s.start))
  | .poutWord i => readIdle s (readElement s.pout i .number)
  | .poutLen => readIdle s (.ok (.number s.pout.length))
  | .repeatCount => readIdle s (.ok (.number s.repeatCount.toNat))
  | .msgSys => readIdle s (.ok (.text s.msgSys))
  | .msgUnit => readIdle s (.ok (.text s.msgUnit))
  | .msgSysChar i => readIdle s (readElement s.msgSys i fun c => .number c.toNat)
  | .msgUnitChar i => readIdle s (readElement s.msgUnit i fun c => .number c.toNat)
  | .msgState =>
    readIdle s
      (match s.msgState with
      | some b => .ok (.flag b)
      | none => .error .readOfInvalid)
  | .msgStateValid => readIdle s (.ok (.flag s.msgStateValid))
  | .msgValid => readIdle s (.ok (.flag s.msgValid))
  | .status => readIdle s (.ok (.number s.status.code.toNat))
  | .reason => readIdle s (.ok (.number s.reason.code.toNat))
  | .busy => .ok (.flag s.busy)
  | .done => .ok (.flag s.done)
  | .fatal => .ok (.flag s.fatal)
  | .metaProtocolName => .ok (.text s.cfg.protocolName)
  | .metaDevType => .ok (.device .switch)
  | .metaHwType => .ok (.hardware .shortRangeSubGhzRadio)
  | .metaMinRawLength => .ok (.number (metaMinRawLength s.cfg))
  | .metaMaxRawLength => .ok (.number (metaMaxRawLength s.cfg))
  | .metaRepeatCount => .ok (.number metaRepeatCount)
  | .metaPatternSys => .ok (.text addressPattern)
  | .metaPatternUnit => .ok (.text addressPattern)

/-- One action of the host. A write of REQ_CMD runs the REQ_CMD row of its code. -/
def hostAct (a : HostAction) (s : State) : Host.Outcome State Fault Refusal :=
  match a with
  | .pinClear => .next (pinClear s)
  | .pinPush d => if d < 2 ^ s.cfg.durWidth then .next (pinPush d s) else .refused .durationTooWide
  | .writeReqSys v => .next (writeReqSys v s)
  | .writeReqUnit v => .next (writeReqUnit v s)
  | .writeReqCmd c => exec (decodeReqCmd c) s
  | .writeOp c => .next (writeOp c s)
  | .raiseStart k => .next (raiseStart k s)
  | .reset => .next (resetInstance s)
  | .read r =>
    match hostRead r s with
    | .ok _ => .next s
    | .error e => .refused e

end Sys2Proof.Machine
end

