-- ==== Sys2Proof/Machine/Fetch.lean ====
section
/-! DEFINITION. Who moves next, and the move: the block fetches nothing from a memory (R17, R41); the code it runs is the OP register when START is
raised (R14), or the code put to a component. -/

namespace Sys2Proof.Machine

/-- The next move. -/
inductive Turn where
  /-- A code put to its component on its own (log 4). -/
  | component (k : Code)
  /-- A host action that falls while the operation runs; `hold` more may follow. -/
  | hostInside (hold : Nat) (a : HostAction) (rest : List HostAction)
  /-- The running operation completes. -/
  | complete
  /-- The block answers a raised START. -/
  | start
  /-- A host action while the block is idle. -/
  | host (a : HostAction) (rest : List HostAction)
  /-- Nothing to do: "it does nothing on its own" (R130). -/
  | idle
  deriving DecidableEq, Repr

/-- The move a state takes next. -/
def nextTurn (s : State) : Turn :=
  match s.present with
  | some k => .component k
  | none =>
    if s.busy then
      match s.hold, s.host with
      | n + 1, a :: rest => .hostInside n a rest
      | _, _ => .complete
    else if s.start then .start
    else
      match s.host with
      | a :: rest => .host a rest
      | [] => .idle

/-- A code that is no row of the table, put to its component: "what the block does not recognise, it passes over in silence" (R64), so a frame or
a pair ends a DECODE with ST_NOMATCH (R62, R63). REASON codes 6 and 7 are never produced (R61, R63 (d)), and U6 tells a model to refuse them; every
code of OP, REQ_CMD and STATUS is a row. That such a code can be put alone is the model's (logs 4, 27). -/
def runUnlisted (k : Code) (s : State) : Host.Outcome State Fault Refusal :=
  match k with
  | .frameN18 b => unlistedFrame b s
  | .frameN6 b => unlistedFrame b s
  | .pulsePair d0 d1 => unlistedPair d0 d1 s
  | .hostOp _ | .reqCmd _ | .status _ | .reason _ => .refused .neverProduced

/-- The block runs one code: the row it stands for, or what the block does with a code that is none. -/
def runCode (k : Code) (s : State) : Host.Outcome State Fault Refusal :=
  match decode s.cfg k with
  | .ok i => exec i s
  | .error _ => runUnlisted k s

/-- The block answers START: the strobe is over (log 17), and the code in OP is run whole (R36), unless host actions fall inside the operation, when
START is accepted now and the operation completes in a later step (log 2). -/
def answerStart (s : State) : Host.Outcome State Fault Refusal :=
  if s.hold = 0 ∨ s.host = [] ∨ s.fatal = true then runCode (.hostOp s.op) { s with start := false, hold := 0 }
  else .next (acceptStart s.op { s with start := false })

/-- A move. -/
def takeTurn (t : Turn) (s : State) : Host.Outcome State Fault Refusal :=
  match t with
  | .component k => runCode k { s with present := none }
  | .hostInside n a rest => hostAct a { s with hold := n, host := rest }
  | .complete => .next (runOperation { s with hold := 0 })
  | .start => answerStart s
  | .host a rest => hostAct a { s with host := rest }
  | .idle => .next s

/-- The configuration a FRAME row's words belong to: the instance's own if it is laid out so, else `c` (log 6). -/
def layoutFor (n : Nat) (c : Config) (s : State) : Config := if s.cfg.TableLayout n then s.cfg else c

/-- An operation that raises the outcome with this STATUS code (R112): the operation such a code is put to when it is placed (log 6). -/
def operationRaising (c : BitVec 3) : BitVec 2 :=
  match c.toNat with
  | 1 => 0#2
  | 2 => 0#2
  | 3 => 1#2
  | 5 => 3#2
  | _ => 2#2

/-- The reason a placed ST_ERR_ARG reports (log 6): the one recorded, or, when none is, RS_SYS_MISSING, as an encode of the request that reset
leaves has it (R103, R115). -/
def reasonFor (c : BitVec 3) (r : Reason) : Reason := if c = 4#3 ∧ r = .none then .sysMissing else r

/-- The operation a frame code is put to when it is placed (logs 6, 27): ENCODE for a request row, DECODE for a report row and for a frame
that is no row, which DECODE ends in ST_NOMATCH (R62, R84). -/
def operationReading (r : Except DecodeError Instr) : BitVec 2 :=
  match r with
  | .ok (.frameOn _ _) | .ok (.frameOff _ _) | .ok (.frameStateQuery _ _) => 2#2
  | .ok (.frameOnSmall _ _) | .ok (.frameOffSmall _ _) | .ok (.frameStateQuerySmall _ _) => 2#2
  | _ => 1#2

/-- The state in which `k` is the code that runs next (log 6). An OP code stands in OP with START raised and the block idle; any other code is put to its
component inside an operation that it belongs to: a report or a pair inside DECODE, a request or an outcome inside the operation that has it.
DESIGN CHOICE (logs 6, 27): a frame or a pair that is no row is placed inside DECODE. DESIGN CHOICE (log 6): only the control bits are set, and nothing is
cleared as an accepted START would clear it (R27), so working and output state stay as `s` has them. -/
def placeCode (k : Code) (s : State) : State :=
  match k with
  | .hostOp c => { s with op := c, start := true, busy := false, hold := 0, present := none }
  | .reqCmd c => { s with host := [.writeReqCmd c], start := false, busy := false, present := none }
  | .frameN18 b =>
    { s with
      cfg := layoutFor 18 Config.ref s
      busy := true
      done := false
      opRun := operationReading (decodeFrameN18 b)
      present := some k }
  | .frameN6 b =>
    { s with
      cfg := layoutFor 6 Config.small s
      busy := true
      done := false
      opRun := operationReading (decodeFrameN6 b)
      present := some k }
  | .pulsePair _ _ => { s with busy := true, done := false, opRun := 1#2, present := some k }
  | .status c =>
    { s with busy := true, done := false, reason := reasonFor c s.reason, opRun := operationRaising c, present := some k }
  | .reason _ => { s with busy := true, done := false, opRun := 2#2, present := some k }

end Sys2Proof.Machine
end

