-- ==== Sys2Proof/Machine/Step.lean ====
section
/-! DEFINITION. One step of an instance, and the state whose next step runs a given word of the table. -/

namespace Sys2Proof.Machine

/-- One step: the next move of the block or of the host. An instance whose configuration is not legal is refused (R6, U10). -/
def step (s : State) : Host.Outcome State Fault Refusal :=
  if s.cfg.Legal then takeTurn (nextTurn s) s else .refused .illegalConfiguration

/-- `s` with the instruction of a table word placed where the next step runs it (log 6). -/
def State.withFetchWord (s : State) (nbits w : Nat) : State :=
  match tableCode nbits w with
  | some k => placeCode k s
  | none => s

end Sys2Proof.Machine
end

