-- ==== Sys2Proof/Safety.lean ====
section
/-! DEFINITION. What holds of every state a legal instance can be in: the invariant that claims use as a premise. -/

namespace Sys2Proof.Machine

/-- Every word of a train fits DUR_WIDTH bits (R11, R20). -/
abbrev trainFits (c : Config) (p : Train) : Prop := ∀ d ∈ p, d < 2 ^ c.durWidth

/-- The buffers' form (R11, R15, R20): lengths within the capacities, words within DUR_WIDTH. -/
abbrev Memory.wf (s : State) : Prop :=
  (s.pin.length ≤ s.cfg.pinCap ∧ trainFits s.cfg s.pin) ∧
  s.bits.length ≤ s.cfg.bitCap ∧
  (s.pout.length ≤ s.cfg.poutCap ∧ trainFits s.cfg s.pout)

/-- What the guarded and bounded registers hold (R16, R17, R18, R19, R21, R83): the cursor is never above BIT_LEN and only a decode moves it. -/
abbrev State.RegistersWf (s : State) : Prop :=
  (s.cur ≤ s.bits.length ∧ (s.opRun ≠ 1#2 → s.cur = 0)) ∧
  (∀ a ∈ s.aSys, a ≤ s.cfg.idMax) ∧
  (∀ a ∈ s.aUnit, a ≤ s.cfg.idMax) ∧
  (∀ f ∈ s.frame, f.acceptable s.cfg = true) ∧
  (∀ p ∈ s.payload, p.acceptable s.cfg = true) ∧
  s.msgSys.length ≤ 7 ∧ s.msgUnit.length ≤ 7

/-- The message and train outputs at their cleared values (R27, R121, R122). -/
abbrev State.OutputsClear (s : State) : Prop :=
  s.pout = [] ∧ s.repeatCount = 0#5 ∧ s.msgValid = false ∧ s.msgState = none ∧ s.msgSys = [] ∧ s.msgUnit = []

/-- BUSY, DONE, FATAL and STATUS (R22, R24, R112): never both BUSY and DONE; FATAL exactly with ST_FATAL_SIZING; STATUS is ST_IDLE until an operation
ends, and then an outcome the operation raises. -/
abbrev State.HandshakeWf (s : State) : Prop :=
  ¬(s.busy = true ∧ s.done = true) ∧
  (s.fatal = true ↔ s.status = .fatalSizing) ∧
  (s.done = false → s.status = .idle) ∧
  (s.done = true → s.status.raisedBy s.opRun = true)

/-- REASON (R23, R115): a reason after every argument error and after nothing else. -/
abbrev State.ReasonWf (s : State) : Prop :=
  (s.done = true → (s.reason = .none ↔ s.status ≠ .errArg)) ∧
  (s.busy = false → s.done = false → s.reason = .none)

/-- The outputs (R21, R27, R106, R121, R122): cleared until an operation succeeds and after every failure; a message after every success but a validation's;
REPEAT 30 after a successful encode and 0 otherwise; a train only from an encode. -/
abbrev State.OutputsWf (s : State) : Prop :=
  (s.done = false → s.repeatCount = 0#5 ∧ s.msgValid = false) ∧
  (s.done = true → s.status ≠ .ok → s.OutputsClear) ∧
  (s.done = true → s.status = .ok → s.repeatCount = (if s.opRun = 2#2 then 30#5 else 0#5)) ∧
  (s.done = true → s.status = .ok → s.msgValid = decide (s.opRun ≠ 0#2)) ∧
  (s.opRun ≠ 2#2 → s.pout = []) ∧
  (s.msgValid = false → s.msgState = none ∧ s.msgSys = [] ∧ s.msgUnit = [])

/-- The parts of a state a frame statement speaks of: the instance and the input state (R10 (a)). -/
abbrev State.SameInputs (s t : State) : Prop :=
  t.cfg = s.cfg ∧ t.pin = s.pin ∧ t.pinOvf = s.pinOvf ∧ t.reqSys = s.reqSys ∧ t.reqUnit = s.reqUnit ∧
    t.reqCmd = s.reqCmd ∧ t.op = s.op ∧ t.start = s.start

/-- The model's own scheduling fields. -/
abbrev State.SameSchedule (s t : State) : Prop := t.hold = s.hold ∧ t.host = s.host ∧ t.present = s.present

/-- The working state (R10 (b)). -/
abbrev State.SameWorking (s t : State) : Prop :=
  t.bits = s.bits ∧ t.pulseIdx = s.pulseIdx ∧ t.cur = s.cur ∧ t.aSys = s.aSys ∧ t.aUnit = s.aUnit ∧
    t.frame = s.frame ∧ t.payload = s.payload ∧ t.sizeReq = s.sizeReq

/-- What the decode path leaves alone: the registers of the encode path, the sampled operation code and FATAL (R16, R19, R24), and the index
of the next free value (log 33). -/
abbrev State.SameElsewhere (s t : State) : Prop :=
  t.aSys = s.aSys ∧ t.aUnit = s.aUnit ∧ t.sizeReq = s.sizeReq ∧ t.opRun = s.opRun ∧ t.fatal = s.fatal ∧ t.freeIdx = s.freeIdx

/-- The working state at its cleared values (R27, R29); the pulse index is not in R29's table. -/
abbrev State.WorkingClear (s : State) : Prop :=
  s.bits = [] ∧ s.cur = 0 ∧ s.aSys = none ∧ s.aUnit = none ∧ s.frame = none ∧ s.payload = none ∧
    s.sizeReq = 0

/-- The message registers hold `m` (R21). -/
abbrev State.HoldsMessage (s : State) (m : Message) : Prop :=
  s.msgValid = true ∧ s.msgSys = m.sys ∧ s.msgUnit = m.unit ∧ s.msgState = m.state

/-- The operation has ended in `st`: BUSY = 0, DONE = 1 (R24). -/
abbrev State.EndedIn (s : State) (st : Status) : Prop := s.status = st ∧ s.busy = false ∧ s.done = true

/-- The invariant of a legal instance. -/
structure State.Inv (s : State) : Prop where
  legal : s.cfg.Legal
  memory : Memory.wf s
  registers : s.RegistersWf
  handshake : s.HandshakeWf
  reason : s.ReasonWf
  outputs : s.OutputsWf

end Sys2Proof.Machine
end

