-- ==== Sys2Proof/Certificates/Slice0/Obligations.lean ====
section
/-! DEFINITION. The statements about this model that are to be proved. -/

open Sys2Proof Sys2Proof.Machine

/-! ## Reset, configuration, the invariant -/

/-- R128, R29, R129: from every state, also while BUSY = 1 or FATAL = 1, a reset leaves every register at the value of R29's table
and the configuration as it was; the guarded registers hold nothing. The pulse index and the model's own fields are the model's choice
(logs 10, 11, 26): not claimed. -/
def Obligations.ResetGivesTheTableFromEveryState : Prop :=
  ∀ s : State, ∃ t, hostAct .reset s = .next t ∧ t.cfg = s.cfg ∧
    t.pin = [] ∧ t.pinOvf = false ∧ t.reqSys = none ∧ t.reqUnit = none ∧ t.reqCmd = 0#2 ∧ t.op = 0#2 ∧ t.start = false ∧
    t.bits = [] ∧ t.cur = 0 ∧ t.aSysOk = false ∧ t.aUnitOk = false ∧ t.fValid = false ∧ t.pValid = false ∧ t.sizeReq = 0 ∧
    t.pout = [] ∧ t.repeatCount = 0#5 ∧ t.msgSys = [] ∧ t.msgUnit = [] ∧ t.msgStateValid = false ∧ t.msgValid = false ∧
    t.status = .idle ∧ t.reason = .none ∧ t.busy = false ∧ t.done = false ∧ t.fatal = false

/-- R5, R6: the two configurations the spec names are legal, and an instance of any legal configuration, the machine's own reset state among
them, starts in the invariant. -/
def Obligations.ResetMeetsTheInvariant : Prop :=
  Config.ref.Legal ∧ Config.small.Legal ∧ State.reset.Inv ∧ ∀ c : Config, c.Legal → (State.resetWith c).Inv

/-- The invariant of Safety.lean (R11, R15 to R24, R83, R106, R112, R121, R122) is kept by every step, from every state that meets it. -/
def Obligations.EveryStepKeepsTheInvariant : Prop :=
  ∀ s t : State, s.Inv → step s = .next t → t.Inv

/-- R41, R5: no step changes the configuration. -/
def Obligations.NoStepChangesTheConfiguration : Prop :=
  ∀ s t : State, step s = .next t → t.cfg = s.cfg

/-- R6, U10: an instance whose configuration is not legal takes no step, and one that is legal is never refused for that reason. -/
def Obligations.OnlyIllegalConfigurationsAreRefusedAsSuch : Prop :=
  ∀ s : State, step s = .refused .illegalConfiguration ↔ ¬ s.cfg.Legal

/-- R24, R124, R128: FATAL stays set until a reset: a step that clears it performs the host's reset, alone or inside an operation. -/
def Obligations.FatalIsClearedByResetAlone : Prop :=
  ∀ s t : State, s.fatal = true → step s = .next t → t.fatal = false →
    s.present = none ∧ ∃ rest, s.host = .reset :: rest ∧
      (nextTurn s = .host .reset rest ∨ ∃ n, nextTurn s = .hostInside n .reset rest)

/-- R130, R4: with nothing pending and no operation running, a step of a legal instance changes nothing. -/
def Obligations.AnIdleBlockDoesNothing : Prop :=
  ∀ s : State, s.cfg.Legal → s.present = none → s.busy = false → s.start = false → s.host = [] → step s = .next s

/-! ## Steps and instructions -/

/-- A step runs the decoded instruction, and every other step is the move that is next. The code put to a component, the OP register when START is raised (the strobe is then over), and a host write
of REQ_CMD each run `exec` of the row they decode to; a code that is no row runs `runUnlisted` (R62 to R64). The next host action is
performed, inside a running operation too, and the operation completes when none is left to fall inside it. The model's scheduling: logs 2, 3, 4, 17,
27. -/
def Obligations.AStepRunsTheDecodedRow : Prop :=
  ∀ s : State, s.cfg.Legal →
    (∀ k i, s.present = some k → decode s.cfg k = .ok i → step s = exec i { s with present := none }) ∧
    (s.present = none → s.busy = false → s.start = true → (s.hold = 0 ∨ s.host = [] ∨ s.fatal = true) →
      step s = exec (decodeHostOp s.op) { s with start := false, hold := 0 }) ∧
    (∀ c rest, s.present = none → s.busy = false → s.start = false → s.host = .writeReqCmd c :: rest →
      step s = exec (decodeReqCmd c) { s with host := rest }) ∧
    (∀ k e, s.present = some k → decode s.cfg k = .error e → step s = runUnlisted k { s with present := none }) ∧
    (∀ a rest, s.present = none → s.busy = false → s.start = false → s.host = a :: rest →
      step s = hostAct a { s with host := rest }) ∧
    (s.present = none → s.busy = false → s.start = true → s.hold ≠ 0 → s.host ≠ [] → s.fatal = false →
      step s = .next (acceptStart s.op { s with start := false })) ∧
    (∀ n a rest, s.present = none → s.busy = true → s.hold = n + 1 → s.host = a :: rest →
      step s = hostAct a { s with hold := n, host := rest }) ∧
    (s.present = none → s.busy = true → (s.hold = 0 ∨ s.host = []) → step s = .next (runOperation { s with hold := 0 }))

/-- R36, R39 (c), R133, R134, R138: an operation inside which host actions fall (none a reset, a read, or a push too wide for the port)
ends, after those actions, in the state the atomic operation gives without them. That actions fall inside an operation so, and that the
START strobe is over once it is answered, is the model's (logs 2, 17). -/
def Obligations.ActionsInsideAnOperationChangeNothing : Prop :=
  ∀ (s : State) (inside rest : List HostAction), s.cfg.Legal → s.present = none → s.acceptsStart = true → s.start = true →
    inside ≠ [] → s.hold = inside.length → s.host = inside ++ rest →
    (∀ a ∈ inside, a ≠ .reset ∧ (∀ r, a ≠ .read r) ∧ ∀ d, a = .pinPush d → d < 2 ^ s.cfg.durWidth) →
    ∃ t, exec (decodeHostOp s.op) { s with start := false, hold := 0, host := rest } = .next t ∧
      Host.Core.run Sys2Proof.core (inside.length + 2) s = .next t

/-- R10 (a), R27, R41: no row of the table changes the configuration or the input state, but for the REQ_CMD rows, which change REQ_CMD alone. -/
def Obligations.NoRowChangesTheInputs : Prop :=
  ∀ (i : Instr) (s t : State), exec i s = .next t →
    (i ∉ [Instr.rcAbsent, .rcOn, .rcOff, .rcQuery] → s.SameInputs t) ∧
    (i ∈ [Instr.rcAbsent, .rcOn, .rcOff, .rcQuery] → t = { s with reqCmd := t.reqCmd }) ∧ s.SameSchedule t

/-! ## Encodings -/

/-- Decoding the code of a row gives the row back, for every row and every operand that is well-formed in the configuration. -/
def Obligations.DecodeOfEncodeIsTheRow : Prop :=
  ∀ (c : Config) (i : Instr), i.wf c = true → decode c (encode i) = .ok i

/-- Each code of a register or a pulse pair has one reading: it is the code of the row it decodes to. A frame is the code of its row, with the
surplus bits of R56 behind it. -/
def Obligations.EncodeOfDecodeIsTheCode : Prop :=
  ∀ (c : Config) (k : Code) (i : Instr), decode c k = .ok i →
    match k with
    | .frameN18 b => ∃ core surplus, encode i = .frameN18 core ∧ b = core ++ surplus
    | .frameN6 b => ∃ core surplus, encode i = .frameN6 core ∧ b = core ++ surplus
    | _ => encode i = k

/-- The table's own words, from spec/opcode_table.json and 95_test_vectors.md: OP 2, `BUILD_ON(5, 34)` and `BUILD_OFF(5, 34)` with 6-bit fields,
the ON frame of S7 with 18-bit fields, the report I1, the pairs (300, 900) and (900, 10200). Which register an 8-bit word stands in is the
model's choice (log 5). -/
def Obligations.WordsOfTheTableDecode : Prop :=
  decodeTableWord 8 2 = some .opEncode ∧
  decodeTableWord 24 0b000001000101100010000000 = some (.frameOnSmall 5#6 34#6) ∧
  decodeTableWord 24 0b000001000101100010000001 = some (.frameOffSmall 5#6 34#6) ∧
  decodeTableWord 72 0b000000000000000001100100100101000001100110100111000010000000000000000000 =
    some (.frameOn 149825#18 158146#18) ∧
  decodeTableWord 40 0b0000010000000000000000110001011000101 =
    some (.frameStateInformSmall 0#6 0#6 5#6 34#6 true) ∧
  decodeTableWord 32 (300 + 900 * 2 ^ 16) = some (.symBit0 300 900) ∧
  decodeTableWord 32 (900 + 10200 * 2 ^ 16) = some (.symTrailer 900 10200)

/-! ## Address Codec -/

/-- R66, R44: the alphabet in its order, and DIGIT_VALUE and DIGIT_CHAR are inverse, on the 64 values and on the characters of the class.
The 8-bit codes of the characters are those of ASCII (log 12, PRESUMED). -/
def Obligations.DigitMapsAreInverse : Prop :=
  alphabet =
    ['0', '1', '2', '3', '4', '5', '6', '7', '8', '9',
      'a', 'b', 'c', 'd', 'e', 'f', 'g', 'h', 'i', 'j', 'k', 'l', 'm', 'n', 'o', 'p', 'q', 'r', 's', 't', 'u', 'v', 'w', 'x', 'y', 'z',
      'A', 'B', 'C', 'D', 'E', 'F', 'G', 'H', 'I', 'J', 'K', 'L', 'M', 'N', 'O', 'P', 'Q', 'R', 'S', 'T', 'U', 'V', 'W', 'X', 'Y', 'Z',
      '_', '@'].map (fun c => BitVec.ofNat 8 c.toNat) ∧
  (∀ v, v < 64 → digitValue (digitChar v) = some v) ∧
  (∀ c v, digitValue c = some v → v < 64 ∧ digitChar v = c)

/-- R69, in every legal configuration. -/
def Obligations.ParseOfFormatIsTheAddress : Prop :=
  ∀ (c : Config) (a : Nat), c.Legal → a ≤ c.idMax → parseAddress c (some (formatAddress a)) = some a

/-- R67, R45: a string is the address `v` exactly when it is the tag and one to five characters of the class whose radix-64 value, most
significant digit first, is `v`, and `v` is at most ID_MAX. The codes 0x30 and 0x61 of the tag `0a` are those of ASCII (log 12, PRESUMED). -/
def Obligations.ParseAcceptsExactlyThePattern : Prop :=
  ∀ (c : Config) (s : Text) (v : Nat), parseAddress c (some s) = some v ↔
    v ≤ c.idMax ∧ ∃ digits : List Nat, 1 ≤ digits.length ∧ digits.length ≤ 5 ∧ (∀ d ∈ digits, d < 64) ∧
      s = [0x30#8, 0x61#8] ++ digits.map digitChar ∧ v = digits.foldl (fun acc d => acc * 64 + d) 0

/-- R46, R68: in every legal configuration the formatted string of an Address has 3 to 7 characters, and no leading `0` digit
unless it is `0a0`, the string of 0. The codes 0x30 and 0x61 of `0` and `a` are those of ASCII (log 12, PRESUMED). -/
def Obligations.FormatIsCanonical : Prop :=
  ∀ (c : Config) (a : Nat), c.Legal → a ≤ c.idMax →
    3 ≤ (formatAddress a).length ∧ (formatAddress a).length ≤ 7 ∧ (formatAddress a).take 2 = [0x30#8, 0x61#8] ∧
      ((formatAddress a)[2]? = some 0x30#8 ↔ a = 0) ∧ formatAddress 0 = [0x30#8, 0x61#8, 0x30#8]

/-- R70: a string that parses is echoed as typed exactly when it has no leading `0` digit or is `0a0`.
The codes 0x30 and 0x61 of `0` and `a` are those of ASCII (log 12, PRESUMED). -/
def Obligations.EchoEqualsCanonicalStringsOnly : Prop :=
  ∀ (c : Config) (s : Text) (a : Nat), c.Legal → parseAddress c (some s) = some a →
    (formatAddress a = s ↔ s[2]? ≠ some 0x30#8 ∨ s = [0x30#8, 0x61#8, 0x30#8])

/-! ## Pulse-Timing Codec -/

/-- R72, R73: in a legal configuration each class is the closed band around its reference, and NONE is the rest. -/
def Obligations.ClassesAreTheClosedBands : Prop :=
  ∀ (c : Config) (d : Nat), c.Legal →
    (classify c d = .low ↔ c.pulseLow - c.tolerance ≤ d ∧ d ≤ c.pulseLow + c.tolerance) ∧
    (classify c d = .high ↔ c.pulseHigh - c.tolerance ≤ d ∧ d ≤ c.pulseHigh + c.tolerance) ∧
    (classify c d = .footer ↔ c.pulseFooter - c.tolerance ≤ d ∧ d ≤ c.pulseFooter + c.tolerance) ∧
    (classify c d = .none ↔ classify c d ≠ .low ∧ classify c d ≠ .high ∧ classify c d ≠ .footer)

/-- R75: what PULSE_DECODE accepts, and the bits it answers; in every other case it answers Empty. -/
def Obligations.PulseDecodeAcceptsExactlyWholeTrains : Prop :=
  ∀ (c : Config) (p : Train) (ovf : Bool) (b : Bits), pulseDecode c p ovf = some b ↔
    ovf = false ∧ b ≠ [] ∧ p.length = 2 * b.length + 2 ∧
      (∀ i, i < b.length → pairToBit c (p.getD (2 * i) 0) (p.getD (2 * i + 1) 0) = b[i]?) ∧
      classify c (p.getD (2 * b.length) 0) = .high ∧ classify c (p.getD (2 * b.length + 1) 0) = .footer

/-- R79, for every bit sequence with at least one bit, in every legal configuration; and its converse: what a train decodes to encodes to the train
again exactly when every pulse of the train sits on a reference. -/
def Obligations.PulseDecodeOfEncodeIsTheBits : Prop :=
  ∀ (c : Config) (b : Bits), c.Legal → b ≠ [] →
    pulseDecode c (pulseEncode c b) false = some b ∧
    ∀ p : Train, pulseDecode c p false = some b →
      (pulseEncode c b = p ↔ ∀ d ∈ p, d = c.pulseLow ∨ d = c.pulseHigh ∨ d = c.pulseFooter)

/-- R77, R9, R11: an encoded train has two pulses per bit and two more, fits POUT when the bits fit BITS, and every word fits DUR_WIDTH. -/
def Obligations.EncodedTrainsFitTheBuffer : Prop :=
  ∀ (c : Config) (b : Bits), c.Legal →
    (pulseEncode c b).length = 2 * b.length + 2 ∧
      (b.length ≤ c.bitCap → (pulseEncode c b).length ≤ c.poutCap) ∧ trainFits c (pulseEncode c b)

/-! ## Frame Codec -/

/-- R81: READ_FIELD answers the value of the `w` bits at the cursor and moves the cursor by `w`, or nothing when fewer remain. -/
def Obligations.ReadFieldReadsAtTheCursor : Prop :=
  ∀ (pre field post : Bits) (w : Nat),
    (readField (pre ++ field ++ post) pre.length field.length =
      some (fromBits field, pre.length + field.length)) ∧
    (post.length < w → readField (pre ++ post) pre.length w = none) ∧ fromBits field < 2 ^ field.length

/-- R93: the decode and the build functions are inverse on request frames, in every legal configuration. -/
def Obligations.DecodeFrameOfBuildIsTheFrame : Prop :=
  ∀ (c : Config) (r : Request) (sys unit : Nat), c.Legal → sys ≤ c.idMax → unit ≤ c.idMax →
    ∃ b, buildFor c r sys unit = some b ∧
      decodeFrame c b = (some ⟨c.protocolId, sys, unit, r.code c⟩, 4 * c.idBits)

/-- R91, R87, R116: every builder returns exactly `4*N` bits, for every operand: the two passes never disagree. -/
def Obligations.BuildersReturnFourFields : Prop :=
  ∀ (c : Config) (r : Request) (sys unit : Nat), ∃ b, buildFor c r sys unit = some b ∧ b.length = 4 * c.idBits

/-- R18, R82, R83, R85: what the decoders construct is acceptable: this protocol, addresses up to ID_MAX, a known command, the
cursor behind the last field. -/
def Obligations.DecodersConstructAcceptableFramesOnly : Prop :=
  ∀ (c : Config) (b : Bits) (cur k : Nat),
    (∀ f, decodeFrame c b = (some f, k) →
      f.proto = c.protocolId ∧ f.toSys ≤ c.idMax ∧ f.toUnit ≤ c.idMax ∧
        f.cmd ∈ [c.cmdOn, c.cmdOff, c.cmdStateQuery, c.cmdStateInform] ∧ k = 4 * c.idBits ∧ k ≤ b.length) ∧
    (∀ p, decodeStateInform c b cur = (some p, k) →
      p.sys ≤ c.idMax ∧ p.unit ≤ c.idMax ∧ k = cur + 2 * c.idBits + 1 ∧ k ≤ b.length)

/-- R86, R56: bits behind the last field a command calls for change no answer of the frame decoders. -/
def Obligations.SurplusBitsAreIgnored : Prop :=
  ∀ (c : Config) (b surplus : Bits),
    (4 * c.idBits ≤ b.length → decodeFrame c (b ++ surplus) = decodeFrame c b) ∧
    (6 * c.idBits + 1 ≤ b.length →
      decodeStateInform c (b ++ surplus) (4 * c.idBits) = decodeStateInform c b (4 * c.idBits) ∧
        decodeReport c (b ++ surplus) = decodeReport c b)

/-! ## Validator -/

/-- R94, R95: VALIDATE answers Ok exactly when there was no overflow and the last two pulses are of class HIGH and FOOTER, whatever
stands before them. -/
def Obligations.ValidateLooksAtTheLastTwoPulses : Prop :=
  ∀ (c : Config) (p : Train) (d0 d1 : Nat) (ovf : Bool),
    (validate c (p ++ [d0, d1]) ovf = true ↔ ovf = false ∧ classify c d0 = .high ∧ classify c d1 = .footer) ∧
    (p.length < 2 → validate c p ovf = false)

/-- R96: a train that VALIDATE rejects, PULSE_DECODE rejects too; so OP_DECODE without the validator's gate ends in the same state. -/
def Obligations.RejectedTrainsDoNotDecode : Prop :=
  (∀ (c : Config) (p : Train) (ovf : Bool), validate c p ovf = false → pulseDecode c p ovf = none) ∧
  ∀ s : State, exec .opDecode s = startOperation 1#2 readTrain s

/-! ## The host operations -/

/-- R107, R121: OP_VALIDATE completes and writes the verdict; inputs and schedule stay, every other output is cleared. -/
def Obligations.OpValidateWritesTheVerdict : Prop :=
  ∀ s : State, s.acceptsStart = true → ∃ t, exec .opValidate s = .next t ∧
    t.EndedIn (if validate s.cfg s.pin s.pinOvf then .ok else .invalid) ∧
    t.OutputsClear ∧ t.reason = .none ∧ t.fatal = false ∧ t.opRun = 0#2 ∧ t.WorkingClear ∧
    s.SameInputs t ∧ s.SameSchedule t

/-- R108, R98, R101, R114, R121: OP_DECODE completes, and what the host reads is what DECODE_INCOMING answers on PIN. -/
def Obligations.OpDecodeGivesDecodeIncoming : Prop :=
  ∀ s : State, s.acceptsStart = true → ∃ t, exec .opDecode s = .next t ∧
    (match decodeIncoming s.cfg s.pin s.pinOvf with
      | some m => t.EndedIn .ok ∧ t.HoldsMessage m ∧ t.pout = [] ∧ t.repeatCount = 0#5
      | none => t.EndedIn .noMatch ∧ t.OutputsClear) ∧
    t.reason = .none ∧ t.fatal = false ∧ t.opRun = 1#2 ∧ t.aSys = none ∧ t.aUnit = none ∧ t.sizeReq = 0 ∧
    s.SameInputs t ∧ s.SameSchedule t

/-- R75, R82, R85: the working registers OP_DECODE leaves: the bits of the train, the frame and the payload its steps reach, and no more;
the cursor is behind the header, or behind the payload that was read. -/
def Obligations.OpDecodeLeavesTheDecodedRegisters : Prop :=
  ∀ s : State, s.acceptsStart = true → ∃ t, exec .opDecode s = .next t ∧
    match pulseDecode s.cfg s.pin s.pinOvf with
    | none => t.bits = [] ∧ t.frame = none ∧ t.payload = none
    | some b =>
      t.bits = b ∧ t.frame = (decodeFrame s.cfg b).1 ∧
        match (decodeFrame s.cfg b).1 with
        | none => t.payload = none
        | some f =>
          t.payload = (if accepted s.cfg f then (decodeStateInform s.cfg b (4 * s.cfg.idBits)).1 else none) ∧
            (accepted s.cfg f = false → t.cur = 4 * s.cfg.idBits) ∧ (t.payload ≠ none → t.cur = 6 * s.cfg.idBits + 1)

/-- R109, R102, R105, R106, R115, R122: OP_ENCODE completes, and what the host reads is what ENCODE_OUTGOING answers on the request. -/
def Obligations.OpEncodeGivesEncodeOutgoing : Prop :=
  ∀ s : State, s.acceptsStart = true → ∃ t, exec .opEncode s = .next t ∧
    (match encodeOutgoing s.cfg s.reqSys s.reqUnit s.reqCmd with
      | .sent r =>
        t.EndedIn .ok ∧ t.pout = r.train ∧ t.repeatCount.toNat = r.repeatCount ∧ t.HoldsMessage r.message ∧
          t.reason = .none ∧ t.fatal = false
      | .argError e => t.EndedIn .errArg ∧ t.reason = e ∧ t.OutputsClear ∧ t.fatal = false
      | .sizingMismatch => t.EndedIn .fatalSizing ∧ t.reason = .none ∧ t.OutputsClear ∧ t.fatal = true) ∧
    t.opRun = 2#2 ∧ t.payload = none ∧ s.SameInputs t ∧ s.SameSchedule t

/-- R103, R115, R120, R122: the first defect in the order of R103 decides REASON; an address parsed before it stays in its working register,
and nothing is built. -/
def Obligations.EncodeReportsTheFirstDefect : Prop :=
  ∀ s : State, s.acceptsStart = true →
    (s.reqSys = none ∨ parseAddress s.cfg s.reqSys = none ∨ s.reqUnit = none ∨ parseAddress s.cfg s.reqUnit = none ∨
      s.reqCmd = 0#2) →
    ∃ t, exec .opEncode s = .next t ∧ t.EndedIn .errArg ∧ t.OutputsClear ∧
      t.aSys = parseAddress s.cfg s.reqSys ∧
      t.aUnit = (if parseAddress s.cfg s.reqSys = none then none else parseAddress s.cfg s.reqUnit) ∧
      t.bits = [] ∧ t.frame = none ∧ t.payload = none ∧ t.sizeReq = 0 ∧ t.cur = 0 ∧
      t.reason =
        (if s.reqSys = none then .sysMissing
        else if parseAddress s.cfg s.reqSys = none then .sysInvalid
        else if s.reqUnit = none then .unitMissing
        else if parseAddress s.cfg s.reqUnit = none then .unitInvalid
        else .cmdMissing)

/-- R102, R104, R105, R106, R78, R87: a request without a defect is sent: the train is the request frame's, `8*N + 2` pulses; REPEAT is 30; the message
holds the canonical echoes and the state of R105; the working registers are those of R16 and R87. -/
def Obligations.EncodeOfAGoodRequestIsSent : Prop :=
  ∀ (s : State) (sys unit : Nat) (r : Request), s.acceptsStart = true →
    parseAddress s.cfg s.reqSys = some sys → parseAddress s.cfg s.reqUnit = some unit → requestOf s.reqCmd = some r →
    ∃ t, exec .opEncode s = .next t ∧ t.EndedIn .ok ∧
      t.pout = pulseEncode s.cfg (headerBits s.cfg.idBits s.cfg.protocolId sys unit (r.code s.cfg)) ∧
      t.pout.length = s.cfg.minRawLength ∧ t.repeatCount = 30#5 ∧
      t.HoldsMessage ⟨formatAddress sys, formatAddress unit, r.echo⟩ ∧
      t.aSys = some sys ∧ t.aUnit = some unit ∧ t.sizeReq = 4 * s.cfg.idBits ∧
      t.frame = some ⟨s.cfg.protocolId, sys, unit, r.code s.cfg⟩ ∧ t.cur = 0 ∧
      t.bits = headerBits s.cfg.idBits s.cfg.protocolId sys unit (r.code s.cfg)

/-- R110, R118: the reserved code is accepted, clears working and output state, and ends in ST_BAD_OP. -/
def Obligations.ReservedCodeEndsInBadOp : Prop :=
  ∀ s : State, s.acceptsStart = true → ∃ t, exec .opReserved s = .next t ∧ t.EndedIn .badOp ∧ t.OutputsClear ∧ t.WorkingClear ∧
    t.reason = .none ∧ t.fatal = false ∧ s.SameInputs t ∧ s.SameSchedule t

/-- R134, R124: a START while BUSY = 1 or FATAL = 1 changes nothing, whatever the code. -/
def Obligations.StartIsIgnoredWhileBusyOrFatal : Prop :=
  ∀ (s : State) (c : BitVec 2), s.busy = true ∨ s.fatal = true → exec (decodeHostOp c) s = .next s

/-- R28, R27: what an operation leaves in working and output state depends on the configuration and the inputs alone: two states that agree on
these, whatever else they hold, end alike. -/
def Obligations.OutcomeDependsOnTheInputsAlone : Prop :=
  ∀ (s s' : State) (c : BitVec 2), s.acceptsStart = true → s'.acceptsStart = true → s.cfg = s'.cfg →
    s.pin = s'.pin → s.pinOvf = s'.pinOvf → s.reqSys = s'.reqSys → s.reqUnit = s'.reqUnit → s.reqCmd = s'.reqCmd →
    ∃ t t', exec (decodeHostOp c) s = .next t ∧ exec (decodeHostOp c) s' = .next t' ∧
      t'.SameWorking t ∧ t.status = t'.status ∧ t.reason = t'.reason ∧ t.pout = t'.pout ∧
      t.repeatCount = t'.repeatCount ∧ t.msgSys = t'.msgSys ∧ t.msgUnit = t'.msgUnit ∧ t.msgState = t'.msgState ∧
      t.msgValid = t'.msgValid ∧ t.busy = t'.busy ∧ t.done = t'.done ∧ t.fatal = t'.fatal

/-- R100: the block cannot decode its own output. A train that an encode sent, loaded into PIN, decodes to no message: the asymmetry must hold in every
legal configuration. -/
def Obligations.RequestsAreNotDecodableAsReports : Prop :=
  ∀ (c : Config) (reqSys reqUnit : Option Text) (reqCmd : BitVec 2) (r : EncodeResult), c.Legal →
    encodeOutgoing c reqSys reqUnit reqCmd = .sent r →
    validate c r.train false = true ∧ (∃ b f, pulseDecode c r.train false = some b ∧ (decodeFrame c b).1 = some f) ∧
      decodeIncoming c r.train false = none

/-- R98, R100, R101, R53: the train of a report, surplus bits allowed, is reported exactly when both destination fields are BROADCAST. -/
def Obligations.ReportsAreDecodedExactlyWhenBroadcast : Prop :=
  ∀ (c : Config) (toSys toUnit sys unit : Nat) (state : Bool) (surplus : Bits), c.Legal →
    toSys ≤ c.idMax → toUnit ≤ c.idMax → sys ≤ c.idMax → unit ≤ c.idMax →
    decodeIncoming c
        (pulseEncode c (informBits c.idBits c.protocolId toSys toUnit c.cmdStateInform sys unit state ++ surplus)) false =
      if toSys = c.broadcast ∧ toUnit = c.broadcast then
        some ⟨formatAddress sys, formatAddress unit, some state⟩
      else none

/-! ## The REQ_CMD rows -/

/-- R59, R26, R133: each REQ_CMD row writes its code into REQ_CMD while BUSY = 0, and is ignored while BUSY = 1; R104: the command each code maps to. -/
def Obligations.RequestCodesAreWrittenWhileIdle : Prop :=
  ∀ s : State,
    (s.busy = false →
      exec .rcAbsent s = .next { s with reqCmd := 0#2 } ∧ exec .rcOn s = .next { s with reqCmd := 1#2 } ∧
        exec .rcOff s = .next { s with reqCmd := 2#2 } ∧ exec .rcQuery s = .next { s with reqCmd := 3#2 }) ∧
    (s.busy = true → ∀ c : BitVec 2, exec (decodeReqCmd c) s = .next s) ∧
    requestOf 0#2 = none ∧ requestOf 1#2 = some .on ∧ requestOf 2#2 = some .off ∧ requestOf 3#2 = some .query

/-! ## The FRAME rows -/

/-- R88, R89, R90, R87: inside ENCODE a request row is built: SIZE_REQ, BITS and the frame registers are written, and nothing else
changes. Rows with 18-bit fields. An operand above ID_MAX, for which R87 states no result, is built as some Address (R18), a free value (log 33, the
model's choice), with every other effect the same. That a row acts on the running operation is the model's (log 4). -/
def Obligations.RequestFramesAreBuiltInsideEncode : Prop :=
  ∀ (s : State) (sys unit : BitVec 18), s.busy = true → s.opRun = 2#2 → s.cfg.TableLayout 18 →
    let built := fun a u k : Nat =>
      { s with
        sizeReq := 72
        bits := headerBits 18 1 a u k
        frame := some ⟨1, a, u, k⟩ }
    (sys.toNat ≤ s.cfg.idMax → unit.toNat ≤ s.cfg.idMax →
      exec (.frameOn sys unit) s = .next (built sys.toNat unit.toNat 0) ∧ exec (.frameOff sys unit) s = .next (built sys.toNat unit.toNat 1) ∧
        exec (.frameStateQuery sys unit) s = .next (built sys.toNat unit.toNat 2)) ∧
    (s.cfg.idMax < sys.toNat ∨ s.cfg.idMax < unit.toNat →
      ∃ a u, a ≤ s.cfg.idMax ∧ u ≤ s.cfg.idMax ∧ (sys.toNat ≤ s.cfg.idMax → a = sys.toNat) ∧
        (unit.toNat ≤ s.cfg.idMax → u = unit.toNat) ∧
        exec (.frameOn sys unit) s = .next { built a u 0 with freeIdx := s.freeIdx + 2 } ∧
        exec (.frameOff sys unit) s = .next { built a u 1 with freeIdx := s.freeIdx + 2 } ∧
        exec (.frameStateQuery sys unit) s = .next { built a u 2 with freeIdx := s.freeIdx + 2 })

/-- R88, R89, R90, R87: the same for the rows with 6-bit fields (logs 4, 33). -/
def Obligations.SmallRequestFramesAreBuiltInsideEncode : Prop :=
  ∀ (s : State) (sys unit : BitVec 6), s.busy = true → s.opRun = 2#2 → s.cfg.TableLayout 6 →
    let built := fun a u k : Nat =>
      { s with
        sizeReq := 24
        bits := headerBits 6 1 a u k
        frame := some ⟨1, a, u, k⟩ }
    (sys.toNat ≤ s.cfg.idMax → unit.toNat ≤ s.cfg.idMax →
      exec (.frameOnSmall sys unit) s = .next (built sys.toNat unit.toNat 0) ∧ exec (.frameOffSmall sys unit) s = .next (built sys.toNat unit.toNat 1) ∧
        exec (.frameStateQuerySmall sys unit) s = .next (built sys.toNat unit.toNat 2)) ∧
    (s.cfg.idMax < sys.toNat ∨ s.cfg.idMax < unit.toNat →
      ∃ a u, a ≤ s.cfg.idMax ∧ u ≤ s.cfg.idMax ∧ (sys.toNat ≤ s.cfg.idMax → a = sys.toNat) ∧
        (unit.toNat ≤ s.cfg.idMax → u = unit.toNat) ∧
        exec (.frameOnSmall sys unit) s = .next { built a u 0 with freeIdx := s.freeIdx + 2 } ∧
        exec (.frameOffSmall sys unit) s = .next { built a u 1 with freeIdx := s.freeIdx + 2 } ∧
        exec (.frameStateQuerySmall sys unit) s = .next { built a u 2 with freeIdx := s.freeIdx + 2 })

/-- R100, R82, R121: inside DECODE a request row of the instance is read into BITS and the frame registers and answered ST_NOMATCH; with an
address above ID_MAX no frame is constructed, and the answer is the same (R62 (c), R83). R62, R84: so is it for a frame of the instance's field width that is no row (other protocol, unknown command, too few bits). That a row or a frame alone acts on the running
operation, and the pulse index it leaves, is the model's (logs 4, 10, 27), and that PIN_OVF is not looked at (log 34); so is the cursor where no frame is
constructed (log 9): not claimed. -/
def Obligations.RequestFramesReadInsideDecodeAreNoMatch : Prop :=
  ∀ s : State, s.cfg.Legal → s.busy = true → s.opRun = 1#2 →
    let refusedBy := fun (n k sys unit : Nat) (i : Instr) =>
      ∃ t, exec i s = .next t ∧ t.EndedIn .noMatch ∧ t.OutputsClear ∧ t.reason = .none ∧
        t.bits = headerBits n 1 sys unit k ∧ t.frame = some ⟨1, sys, unit, k⟩ ∧ t.payload = s.payload ∧ t.cur = 4 * n ∧
        t.pulseIdx = 4 * n ∧ s.SameElsewhere t ∧ s.SameInputs t ∧ s.SameSchedule t
    let noFrame := fun (n k sys unit : Nat) (i : Instr) =>
      ∃ t, exec i s = .next t ∧ t.EndedIn .noMatch ∧ t.OutputsClear ∧ t.reason = .none ∧
        t.bits = headerBits n 1 sys unit k ∧ t.frame = none ∧ t.payload = s.payload ∧ t.pulseIdx = 4 * n ∧
        s.SameElsewhere t ∧ s.SameInputs t ∧ s.SameSchedule t
    (s.cfg.TableLayout 18 → ∀ sys unit : BitVec 18, s.cfg.idMax < sys.toNat ∨ s.cfg.idMax < unit.toNat →
      noFrame 18 0 sys.toNat unit.toNat (.frameOn sys unit) ∧ noFrame 18 1 sys.toNat unit.toNat (.frameOff sys unit) ∧
        noFrame 18 2 sys.toNat unit.toNat (.frameStateQuery sys unit)) ∧
    (s.cfg.TableLayout 6 → ∀ sys unit : BitVec 6, s.cfg.idMax < sys.toNat ∨ s.cfg.idMax < unit.toNat →
      noFrame 6 0 sys.toNat unit.toNat (.frameOnSmall sys unit) ∧ noFrame 6 1 sys.toNat unit.toNat (.frameOffSmall sys unit) ∧
        noFrame 6 2 sys.toNat unit.toNat (.frameStateQuerySmall sys unit)) ∧
    (s.cfg.TableLayout 18 → ∀ sys unit : BitVec 18, sys.toNat ≤ s.cfg.idMax → unit.toNat ≤ s.cfg.idMax →
      refusedBy 18 0 sys.toNat unit.toNat (.frameOn sys unit) ∧ refusedBy 18 1 sys.toNat unit.toNat (.frameOff sys unit) ∧
        refusedBy 18 2 sys.toNat unit.toNat (.frameStateQuery sys unit)) ∧
    (s.cfg.TableLayout 6 → ∀ sys unit : BitVec 6, sys.toNat ≤ s.cfg.idMax → unit.toNat ≤ s.cfg.idMax →
      refusedBy 6 0 sys.toNat unit.toNat (.frameOnSmall sys unit) ∧
        refusedBy 6 1 sys.toNat unit.toNat (.frameOffSmall sys unit) ∧
        refusedBy 6 2 sys.toNat unit.toNat (.frameStateQuerySmall sys unit)) ∧
    (∀ b k e, (s.cfg.TableLayout 18 ∧ k = .frameN18 b ∨ s.cfg.TableLayout 6 ∧ k = .frameN6 b) → s.present = some k →
      decode s.cfg k = .error e →
      ∃ t, step s = .next t ∧ t.EndedIn .noMatch ∧ t.OutputsClear ∧ t.reason = .none ∧ s.SameElsewhere t ∧ s.SameInputs t ∧
        t.hold = s.hold ∧ t.host = s.host ∧ t.present = none ∧
        (if b.length ≤ s.cfg.bitCap then t.bits = b ∧ t.frame = (decodeFrame s.cfg b).1 ∧ t.pulseIdx = b.length
        else t.bits = [] ∧ t.frame = s.frame ∧ t.payload = s.payload ∧ t.pulseIdx = s.pulseIdx))

/-- R85, R82, R83, R100, R101: inside DECODE a report row of the instance is reported exactly when both destinations are BROADCAST and both payload
addresses are at most ID_MAX, with its payload in the payload registers, and is answered ST_NOMATCH otherwise: with no frame when a destination is above
ID_MAX, with no payload when a payload address of a broadcast report is (R62 (c)). That a row acts on the running operation, and the pulse index it leaves, is the model's (logs
4, 10), and that PIN_OVF is not looked at (log 34). -/
def Obligations.ReportFramesReadInsideDecode : Prop :=
  ∀ s : State, s.cfg.Legal → s.busy = true → s.opRun = 1#2 →
    let readBy := fun (n toSys toUnit sys unit : Nat) (state : Bool) (i : Instr) =>
      ∃ t, exec i s = .next t ∧
        (if s.cfg.idMax < toSys ∨ s.cfg.idMax < toUnit then
          t.EndedIn .noMatch ∧ t.OutputsClear ∧ t.frame = none ∧ t.payload = s.payload
        else
          t.frame = some ⟨1, toSys, toUnit, 3⟩ ∧
            (if toSys = s.cfg.broadcast ∧ toUnit = s.cfg.broadcast then
              (if sys ≤ s.cfg.idMax ∧ unit ≤ s.cfg.idMax then
                t.EndedIn .ok ∧ t.payload = some ⟨sys, unit, state⟩ ∧ t.cur = 6 * n + 1 ∧
                  t.HoldsMessage ⟨formatAddress sys, formatAddress unit, some state⟩ ∧ t.repeatCount = s.repeatCount ∧
                  t.pout = s.pout
              else t.EndedIn .noMatch ∧ t.OutputsClear ∧ t.payload = none)
            else t.EndedIn .noMatch ∧ t.OutputsClear ∧ t.payload = s.payload ∧ t.cur = 4 * n)) ∧
        t.reason = .none ∧ t.bits = informBits n 1 toSys toUnit 3 sys unit state ∧ t.pulseIdx = 6 * n + 1 ∧
        s.SameElsewhere t ∧ s.SameInputs t ∧ s.SameSchedule t
    (s.cfg.TableLayout 18 → ∀ (toSys toUnit sys unit : BitVec 18) (state : Bool),
      readBy 18 toSys.toNat toUnit.toNat sys.toNat unit.toNat state (.frameStateInform toSys toUnit sys unit state)) ∧
    (s.cfg.TableLayout 6 → ∀ (toSys toUnit sys unit : BitVec 6) (state : Bool),
      readBy 6 toSys.toNat toUnit.toNat sys.toNat unit.toNat state (.frameStateInformSmall toSys toUnit sys unit state))

/-- R92: the block has no builder for a report: inside ENCODE the report rows are refused, and the request rows of another layout too. R95,
R110: inside VALIDATE and the reserved operation no FRAME or PULSE_PAIR row changes anything. A frame or a pair that is no row is refused inside ENCODE,
and changes nothing inside those two and with BUSY = 0 (R64). The model's conventions: logs 4, 18, 19, 27. -/
def Obligations.FrameRowsOutsideTheirPath : Prop :=
  (∀ (s : State) (a b x y : BitVec 18) (a' b' x' y' : BitVec 6) (state : Bool) (d0 d1 : Nat), s.busy = true →
    (s.opRun = 2#2 →
      exec (.frameStateInform a b x y state) s = .refused .noBuilder ∧
        exec (.frameStateInformSmall a' b' x' y' state) s = .refused .noBuilder ∧
        (¬ s.cfg.TableLayout 18 →
          ∀ i ∈ [Instr.frameOn x y, .frameOff x y, .frameStateQuery x y], exec i s = .refused .foreignFrame) ∧
        (¬ s.cfg.TableLayout 6 →
          ∀ i ∈ [Instr.frameOnSmall x' y', .frameOffSmall x' y', .frameStateQuerySmall x' y'],
            exec i s = .refused .foreignFrame)) ∧
    (s.opRun = 0#2 ∨ s.opRun = 3#2 →
      ∀ i ∈ [Instr.frameOn x y, .frameOff x y, .frameStateQuery x y, .frameStateInform a b x y state, .frameOnSmall x' y',
        .frameOffSmall x' y', .frameStateQuerySmall x' y', .frameStateInformSmall a' b' x' y' state, .symBit0 d0 d1,
        .symBit1 d0 d1, .symTrailer d0 d1], exec i s = .next s)) ∧
  ∀ (s : State) (bs : Bits) (d0 d1 : Nat),
    (s.busy = true → s.opRun = 2#2 →
      runUnlisted (.frameN18 bs) s = .refused .noBuilder ∧ runUnlisted (.frameN6 bs) s = .refused .noBuilder ∧
        (d0 < 2 ^ s.cfg.durWidth → d1 < 2 ^ s.cfg.durWidth → runUnlisted (.pulsePair d0 d1) s = .refused .noSymbol)) ∧
    (s.busy = false ∨ s.opRun = 0#2 ∨ s.opRun = 3#2 →
      runUnlisted (.frameN18 bs) s = .next s ∧ runUnlisted (.frameN6 bs) s = .next s ∧
        (d0 < 2 ^ s.cfg.durWidth → d1 < 2 ^ s.cfg.durWidth → runUnlisted (.pulsePair d0 d1) s = .next s)) ∧
    (2 ^ s.cfg.durWidth ≤ d0 ∨ 2 ^ s.cfg.durWidth ≤ d1 → runUnlisted (.pulsePair d0 d1) s = .refused .durationTooWide)

/-! ## The PULSE_PAIR rows -/

/-- R74, R75: inside DECODE a bit symbol of the instance appends its bit to BITS and moves the pulse index; a trailer behind at least one bit
changes nothing; at capacity an append is a fault, which is the model's reading (log 22); that a trailer leaves no record, and that PIN_OVF is not looked at, is its
choice (logs 29, 34). That a row acts on the running operation is the model's (log 4). -/
def Obligations.SymbolsAreReadInsideDecode : Prop :=
  ∀ (s : State) (d0 d1 : Nat), s.busy = true → s.opRun = 1#2 →
    ((Instr.symBit0 d0 d1).wf s.cfg = true →
      exec (.symBit0 d0 d1) s =
        if s.bits.length < s.cfg.bitCap then
          .next { s with bits := s.bits ++ [false], pulseIdx := s.pulseIdx + 1 }
        else .fault .appendBeyondCapacity) ∧
    ((Instr.symBit1 d0 d1).wf s.cfg = true →
      exec (.symBit1 d0 d1) s =
        if s.bits.length < s.cfg.bitCap then
          .next { s with bits := s.bits ++ [true], pulseIdx := s.pulseIdx + 1 }
        else .fault .appendBeyondCapacity) ∧
    ((Instr.symTrailer d0 d1).wf s.cfg = true → s.bits ≠ [] → exec (.symTrailer d0 d1) s = .next s)

/-- R74, R77, R47, R48: inside ENCODE a symbol is written to POUT as the exact references, whatever durations its row was given (log 4), also behind a
trailer written so (log 29). With room for less than a pair the append is a fault, which is the model's reading (log 22). -/
def Obligations.SymbolsAreWrittenInsideEncode : Prop :=
  ∀ (s : State) (d0 d1 : Nat), s.busy = true → s.opRun = 2#2 →
    (s.pout.length + 2 ≤ s.cfg.poutCap →
      exec (.symBit0 d0 d1) s =
        .next { s with pout := s.pout ++ [s.cfg.pulseLow, s.cfg.pulseHigh], pulseIdx := s.pulseIdx + 1 } ∧
      exec (.symBit1 d0 d1) s =
        .next { s with pout := s.pout ++ [s.cfg.pulseHigh, s.cfg.pulseLow], pulseIdx := s.pulseIdx + 1 } ∧
      exec (.symTrailer d0 d1) s = .next { s with pout := s.pout ++ [s.cfg.pulseHigh, s.cfg.pulseFooter] }) ∧
    (s.cfg.poutCap < s.pout.length + 2 →
      ∀ i ∈ [Instr.symBit0 d0 d1, .symBit1 d0 d1, .symTrailer d0 d1], exec i s = .fault .appendBeyondCapacity)

/-- R75, R63 (a), R114, R121: inside DECODE a pair that is no symbol, and a trailer with no bit before it, make the train Empty: ST_NOMATCH, BITS
emptied, the cursor at 0 (the model's deduction from R17 and R75: log 9), every output cleared, and the rest as it was, the pulse index too (log 10). The first clause covers a bit row whose pair is
no bit symbol, the last a pair that is no row of the table, put alone. That a row or a pair alone acts on the running operation is the model's (logs
4, 27, 34). -/
def Obligations.BadPairsEndInNoMatch : Prop :=
  ∀ (s : State) (d0 d1 : Nat), s.busy = true → s.opRun = 1#2 →
    let emptied := fun t : State =>
      t.EndedIn .noMatch ∧ t.OutputsClear ∧ t.reason = .none ∧ t.bits = [] ∧ t.cur = 0 ∧ t.pulseIdx = s.pulseIdx ∧
        t.frame = s.frame ∧ t.payload = s.payload ∧ s.SameElsewhere t ∧ s.SameInputs t ∧ t.hold = s.hold ∧ t.host = s.host
    (pairToBit s.cfg d0 d1 = none →
      ∃ t, exec (.symBit0 d0 d1) s = .next t ∧ exec (.symBit1 d0 d1) s = .next t ∧ emptied t ∧ t.present = s.present) ∧
    (isTrailer s.cfg d0 d1 = false ∨ s.bits = [] →
      ∃ t, exec (.symTrailer d0 d1) s = .next t ∧ emptied t ∧ t.present = s.present) ∧
    (s.cfg.Legal → s.present = some (.pulsePair d0 d1) → decode s.cfg (.pulsePair d0 d1) = .error .notASymbol →
      ∃ t, step s = .next t ∧ emptied t ∧ t.present = none)

/-! ## The STATUS and REASON rows -/

/-- R112, R113, R114, R115, R116, R118, R121, R122: each failure row ends the running operation that raises it: STATUS its outcome, DONE, every output
cleared, REASON kept with ST_ERR_ARG alone, FATAL set by ST_FATAL_SIZING alone; inputs and working state stay.
That a row acts on the running operation, and that an outcome put alone is taken as it stands, is the model's (logs 4, 32). -/
def Obligations.FailureRowsEndTheOperation : Prop :=
  ∀ (s : State) (i : Instr) (st : Status), s.busy = true →
    (i, st) ∈ [(Instr.stInvalid, Status.invalid), (.stNoMatch, .noMatch), (.stErrArg, .errArg), (.stBadOp, .badOp),
      (.stFatalSizing, .fatalSizing)] →
    st.raisedBy s.opRun = true → (st = .errArg → s.reason ≠ .none) →
    ∃ t, exec i s = .next t ∧ t.EndedIn st ∧ t.OutputsClear ∧ t.reason = (if st = .errArg then s.reason else .none) ∧
      t.fatal = (s.fatal || decide (st = .fatalSizing)) ∧ t.opRun = s.opRun ∧ s.SameInputs t ∧ s.SameWorking t ∧ s.SameSchedule t

/-- R101, R105, R106, R107, R112: ST_OK ends the running operation and writes its outputs from the working registers; ST_IDLE ends nothing.
That a row acts on the running operation is the model's (log 4), and so is that inside ENCODE POUT stays as it stands (log 31)
and that inside VALIDATE PIN is not looked at (log 32). -/
def Obligations.SuccessRowWritesTheOutputs : Prop :=
  ∀ s : State, s.busy = true →
    let unchanged := fun t : State =>
      t.opRun = s.opRun ∧ t.fatal = s.fatal ∧ s.SameInputs t ∧ s.SameWorking t ∧ s.SameSchedule t
    (s.opRun = 0#2 → ∃ t, exec .stOk s = .next t ∧ t.EndedIn .ok ∧ t.reason = .none ∧ t.pout = s.pout ∧
      t.repeatCount = s.repeatCount ∧ t.msgValid = s.msgValid ∧ t.msgSys = s.msgSys ∧ t.msgUnit = s.msgUnit ∧
      t.msgState = s.msgState ∧ unchanged t) ∧
    (∀ p, s.opRun = 1#2 → s.payload = some p → ∃ t, exec .stOk s = .next t ∧ t.EndedIn .ok ∧ t.reason = .none ∧
      t.HoldsMessage ⟨formatAddress p.sys, formatAddress p.unit, some p.state⟩ ∧ t.repeatCount = s.repeatCount ∧
      t.pout = s.pout ∧ unchanged t) ∧
    (∀ sys unit r, s.opRun = 2#2 → s.aSys = some sys → s.aUnit = some unit → requestOf s.reqCmd = some r →
      ∃ t, exec .stOk s = .next t ∧ t.EndedIn .ok ∧ t.reason = .none ∧
        t.HoldsMessage ⟨formatAddress sys, formatAddress unit, r.echo⟩ ∧ t.repeatCount = 30#5 ∧ t.pout = s.pout ∧ unchanged t) ∧
    exec .stIdle s = .next { s with status := .idle }

/-- R112: an outcome row inside an operation that does not raise it is refused by name. R101, R105, R115: so are ST_OK with no payload read or no
parsed request, and ST_ERR_ARG with no reason recorded. The refusals are the model's (log 25). -/
def Obligations.OutcomesOfOtherOperationsAreRefused : Prop :=
  ∀ s : State, s.busy = true →
    (∀ (i : Instr) (st : Status),
      (i, st) ∈ [(Instr.stOk, Status.ok), (.stInvalid, .invalid), (.stNoMatch, .noMatch), (.stErrArg, .errArg),
        (.stBadOp, .badOp), (.stFatalSizing, .fatalSizing)] →
      st.raisedBy s.opRun = false → exec i s = .refused .outcomeOfAnotherOperation) ∧
    (s.opRun = 1#2 → s.payload = none → exec .stOk s = .refused .outcomeNotReached) ∧
    (s.opRun = 2#2 → s.aSys = none ∨ s.aUnit = none ∨ requestOf s.reqCmd = none → exec .stOk s = .refused .outcomeNotReached) ∧
    (s.opRun = 2#2 → s.reason = .none → exec .stErrArg s = .refused .outcomeNotReached)

/-- R117, U6: ST_FATAL_ALLOC is never produced: its row is refused in every state. -/
def Obligations.AllocationFailureIsNeverProduced : Prop :=
  ∀ s : State, exec .stFatalAlloc s = .refused .neverProduced

/-- R115, R61, R122: each REASON row records its reason and nothing else, and ST_ERR_ARG then ends the encode with that reason (log 4).
R61, U6: codes 6 and 7 are no rows and are refused, in every state (log 13). That an operation other than ENCODE records a reason too is the
model's (log 28). -/
def Obligations.ReasonsAreRecordedAndReported : Prop :=
  (∀ (s : State) (i : Instr) (r : Reason), s.busy = true →
    (i, r) ∈ [(Instr.rsNone, Reason.none), (.rsSysMissing, .sysMissing), (.rsSysInvalid, .sysInvalid),
      (.rsUnitMissing, .unitMissing), (.rsUnitInvalid, .unitInvalid), (.rsCmdMissing, .cmdMissing)] →
    exec i s = .next { s with reason := r } ∧
      (r ≠ .none → s.opRun = 2#2 →
        ∃ t, exec .stErrArg { s with reason := r } = .next t ∧ t.EndedIn .errArg ∧ t.reason = r ∧ t.OutputsClear)) ∧
  ∀ (s : State) (c : BitVec 3), c = 6#3 ∨ c = 7#3 →
    decode s.cfg (.reason c) = .error .reservedCode ∧ runUnlisted (.reason c) s = .refused .neverProduced

/-- R4: with no operation running, the FRAME, PULSE_PAIR, STATUS and REASON rows change nothing (the model's convention of log 4), but
for ST_FATAL_ALLOC, which is refused. -/
def Obligations.ComponentRowsDoNothingWhileIdle : Prop :=
  ∀ (s : State) (i : Instr), s.busy = false →
    i ∉ [Instr.opValidate, .opDecode, .opEncode, .opReserved, .rcAbsent, .rcOn, .rcOff, .rcQuery, .stFatalAlloc] →
    exec i s = .next s

/-! ## The host port -/

/-- R31: clearing PIN and pushing the pulses of a train one by one gives what taking the whole train at once gives: the first PIN_CAP pulses, and the
overflow flag when there were more. -/
def Obligations.PushingATrainIsLoadingIt : Prop :=
  ∀ (s : State) (p : Train), s.busy = false →
    p.foldl (fun t d => pinPush d t) (pinClear s) =
      { s with pin := p.take s.cfg.pinCap, pinOvf := decide (s.cfg.pinCap < p.length) }

/-- R133, R134, R39 (c): while BUSY = 1 no host action but a reset changes anything. -/
def Obligations.HostActionsAreIgnoredWhileBusy : Prop :=
  ∀ (s t : State) (a : HostAction), s.busy = true → a ≠ .reset → hostAct a s = .next t → t = s

/-- R12, R13, R14, R26, R31: while BUSY = 0 a host write of REQ_SYS, REQ_UNIT, REQ_CMD or OP, and a raised START, write that register and nothing else;
PIN_CLEAR empties PIN and clears PIN_OVF, PIN_PUSH appends below capacity and sets PIN_OVF at it, and nothing else. A duration that does not fit the
port is refused (U14, log 18); `hold` is the model's own (log 2). -/
def Obligations.HostWritesReachTheirRegisterAlone : Prop :=
  ∀ s : State, s.busy = false →
    (∀ v, hostAct (.writeReqSys v) s = .next { s with reqSys := v } ∧ hostAct (.writeReqUnit v) s = .next { s with reqUnit := v }) ∧
    (∀ c, hostAct (.writeOp c) s = .next { s with op := c } ∧ hostAct (.writeReqCmd c) s = .next { s with reqCmd := c }) ∧
    (∀ k, hostAct (.raiseStart k) s = .next { s with start := true, hold := k }) ∧
    hostAct .pinClear s = .next { s with pin := [], pinOvf := false } ∧
    (∀ d, d < 2 ^ s.cfg.durWidth →
      (s.pin.length < s.cfg.pinCap → hostAct (.pinPush d) s = .next { s with pin := s.pin ++ [d] }) ∧
      (s.cfg.pinCap ≤ s.pin.length → hostAct (.pinPush d) s = .next { s with pinOvf := true })) ∧
    (∀ d, 2 ^ s.cfg.durWidth ≤ d → hostAct (.pinPush d) s = .refused .durationTooWide)

/-- R36, R32, R135, U4: a read changes nothing; below the length it gives the element, at or above it is refused; outputs are unreadable while
BUSY = 1; MSG_STATE is unreadable while MSG_STATE_VALID = 0. With BUSY = 0 every other register the host may read gives its value, STATUS and REASON by the
codes of R60 and R61. That BUSY, DONE, FATAL stay readable is the model's reading (log 15). -/
def Obligations.ReadsAreDefinedWhereTheSpecDefinesThem : Prop :=
  ∀ (s : State) (r : HostRegister),
    (∀ t, hostAct (.read r) s = .next t → t = s) ∧
    (s.busy = false → ∀ i, hostRead (.poutWord i) s =
      if h : i < s.pout.length then .ok (.number s.pout[i]) else .error .readPastLength) ∧
    (s.busy = false → hostRead .msgState s =
      match s.msgState with
      | some b => .ok (.flag b)
      | none => .error .readOfInvalid) ∧
    (s.busy = true →
      ∀ q ∈ [HostRegister.poutLen, .repeatCount, .msgSys, .msgUnit, .msgState, .msgStateValid, .msgValid, .status, .reason],
        hostRead q s = .error .readWhileBusy) ∧
    (s.busy = true → ∀ i, hostRead (.poutWord i) s = .error .readWhileBusy ∧ hostRead (.msgSysChar i) s = .error .readWhileBusy ∧
      hostRead (.msgUnitChar i) s = .error .readWhileBusy) ∧
    (s.busy = false → ∀ i,
      hostRead (.pinWord i) s = (if h : i < s.pin.length then .ok (.number s.pin[i]) else .error .readPastLength) ∧
      hostRead (.msgSysChar i) s = (if h : i < s.msgSys.length then .ok (.number s.msgSys[i].toNat) else .error .readPastLength) ∧
      hostRead (.msgUnitChar i) s =
        (if h : i < s.msgUnit.length then .ok (.number s.msgUnit[i].toNat) else .error .readPastLength)) ∧
    (s.busy = false →
      hostRead .status s = .ok (.number s.status.code.toNat) ∧ hostRead .reason s = .ok (.number s.reason.code.toNat) ∧
      hostRead .repeatCount s = .ok (.number s.repeatCount.toNat) ∧ hostRead .poutLen s = .ok (.number s.pout.length) ∧
      hostRead .msgSys s = .ok (.text s.msgSys) ∧ hostRead .msgUnit s = .ok (.text s.msgUnit) ∧
      hostRead .msgValid s = .ok (.flag s.msgValid) ∧ hostRead .msgStateValid s = .ok (.flag s.msgState.isSome) ∧
      hostRead .pinLen s = .ok (.number s.pin.length) ∧ hostRead .pinOvf s = .ok (.flag s.pinOvf) ∧
      hostRead .reqSys s = .ok (.optionalText s.reqSys) ∧ hostRead .reqUnit s = .ok (.optionalText s.reqUnit) ∧
      hostRead .reqCmd s = .ok (.number s.reqCmd.toNat) ∧ hostRead .op s = .ok (.number s.op.toNat) ∧
      hostRead .start s = .ok (.flag s.start) ∧ hostRead .busy s = .ok (.flag s.busy) ∧
      hostRead .done s = .ok (.flag s.done) ∧ hostRead .fatal s = .ok (.flag s.fatal)) ∧
    ([Status.idle, .ok, .invalid, .noMatch, .errArg, .badOp, .fatalSizing].map fun st => st.code.toNat) = [0, 1, 2, 3, 4, 5, 6] ∧
    ([Reason.none, .sysMissing, .sysInvalid, .unitMissing, .unitInvalid, .cmdMissing].map fun r => r.code.toNat) = [0, 1, 2, 3, 4, 5]

/-- R25, R111: the metadata reads as its constants at any time, also while BUSY = 1 and while FATAL = 1. The pattern `^0a[0-9a-zA-Z_@]`
with its count of one to five is spelled in the codes of ASCII (log 12, PRESUMED). -/
def Obligations.MetadataReadsAtAnyTime : Prop :=
  ∀ s : State,
    hostRead .metaProtocolName s = .ok (.text s.cfg.protocolName) ∧
    hostRead .metaMinRawLength s = .ok (.number (8 * s.cfg.idBits + 2)) ∧
    hostRead .metaMaxRawLength s = .ok (.number (20 * s.cfg.idBits + 2)) ∧
    hostRead .metaRepeatCount s = .ok (.number 30) ∧
    hostRead .metaDevType s = .ok (.device .switch) ∧
    hostRead .metaHwType s = .ok (.hardware .shortRangeSubGhzRadio) ∧
    hostRead .metaPatternSys s = .ok (.text addressPattern) ∧ hostRead .metaPatternUnit s = .ok (.text addressPattern) ∧
    addressPattern =
      [0x5E#8, 0x30#8, 0x61#8, 0x5B#8, 0x30#8, 0x2D#8, 0x39#8, 0x61#8, 0x2D#8, 0x7A#8, 0x41#8, 0x2D#8, 0x5A#8, 0x5F#8, 0x40#8,
        0x5D#8, 0x7B#8, 0x31#8, 0x2C#8, 0x35#8, 0x7D#8, 0x24#8]
end

