-- ==== Sys2Proof/Laws/Bits.lean ====
section
/-! SUPPORT. Bit fields: length, value and round trips of toBits and fromBits (R51); what READ_FIELD answers (R81). -/

namespace Sys2Proof.Machine

@[simp] theorem toBits_zero (v : Nat) : toBits 0 v = [] := rfl

theorem toBits_succ (w v : Nat) : toBits (w + 1) v = v.testBit w :: toBits w v := rfl

@[simp] theorem toBits_length (w v : Nat) : (toBits w v).length = w := by
  induction w with
  | zero => rfl
  | succ w ih => simp [toBits_succ, ih]

@[simp] theorem fromBits_nil : fromBits [] = 0 := rfl

theorem foldl_fromBits (b : Bits) (a : Nat) :
    b.foldl (fun acc bit => 2 * acc + bit.toNat) a = a * 2 ^ b.length + fromBits b := by
  induction b generalizing a with
  | nil => simp [fromBits]
  | cons x xs ih =>
    have h0 := ih (2 * a + x.toNat)
    have h1 := ih (2 * 0 + x.toNat)
    simp only [List.foldl_cons, fromBits, List.length_cons, pow_succ] at h0 h1 ⊢
    rw [h0, h1]
    ring

theorem fromBits_cons (x : Bool) (xs : Bits) : fromBits (x :: xs) = x.toNat * 2 ^ xs.length + fromBits xs := by
  have h := foldl_fromBits xs (2 * 0 + x.toNat)
  simpa [fromBits] using h

theorem fromBits_append (b b' : Bits) : fromBits (b ++ b') = fromBits b * 2 ^ b'.length + fromBits b' := by
  have h := foldl_fromBits b' (fromBits b)
  simpa [fromBits, List.foldl_append] using h

theorem fromBits_lt (b : Bits) : fromBits b < 2 ^ b.length := by
  induction b with
  | nil => simp
  | cons x xs ih =>
    rw [fromBits_cons, List.length_cons, pow_succ]
    have : x.toNat ≤ 1 := by cases x <;> simp
    nlinarith [Nat.zero_le (2 ^ xs.length)]

/-- The bits of `v` stand for `v` modulo the field. -/
theorem fromBits_toBits_mod (w v : Nat) : fromBits (toBits w v) = v % 2 ^ w := by
  induction w with
  | zero => simp [Nat.mod_one]
  | succ w ih =>
    rw [toBits_succ, fromBits_cons, toBits_length, ih, Nat.mod_pow_succ, Nat.toNat_testBit]
    ring

/-- A field written with `to_bits` reads back (00_scope.md section 5). -/
theorem fromBits_toBits {w v : Nat} (h : v < 2 ^ w) : fromBits (toBits w v) = v := by
  rw [fromBits_toBits_mod, Nat.mod_eq_of_lt h]

theorem toBits_eq_of_mod {w v v' : Nat} (h : v % 2 ^ w = v' % 2 ^ w) : toBits w v = toBits w v' := by
  induction w with
  | zero => rfl
  | succ w ih =>
    have hb : v.testBit w = v'.testBit w := by
      have h1 := Nat.testBit_mod_two_pow v (w + 1) w
      have h2 := Nat.testBit_mod_two_pow v' (w + 1) w
      rw [h] at h1
      simp only [Nat.lt_succ_self, decide_true, Bool.true_and] at h1 h2
      rw [← h1, h2]
    have hm : v % 2 ^ w = v' % 2 ^ w := by
      have h' := congrArg (· % 2 ^ w) h
      simpa [Nat.mod_mod_of_dvd, pow_succ] using h'
    rw [toBits_succ, toBits_succ, hb, ih hm]

/-- Bits are the field of their own value. -/
theorem toBits_fromBits (b : Bits) : toBits b.length (fromBits b) = b := by
  induction b with
  | nil => rfl
  | cons x xs ih =>
    have hlt := fromBits_lt xs
    rw [List.length_cons, toBits_succ, fromBits_cons]
    have hbit : (x.toNat * 2 ^ xs.length + fromBits xs).testBit xs.length = x := by
      rw [Nat.mul_comm, Nat.testBit_two_pow_mul_add _ hlt]
      cases x <;> simp
    have hmod : (x.toNat * 2 ^ xs.length + fromBits xs) % 2 ^ xs.length = fromBits xs % 2 ^ xs.length := by
      rw [Nat.mul_comm, Nat.mul_add_mod]
    rw [hbit, toBits_eq_of_mod hmod, ih]

@[simp] theorem headerBits_length (n a b c d : Nat) : (headerBits n a b c d).length = 4 * n := by
  simp [headerBits]; omega

@[simp] theorem informBits_length (n a b c d e f : Nat) (st : Bool) :
    (informBits n a b c d e f st).length = 6 * n + 1 := by
  simp [informBits]; omega

/-- READ_FIELD succeeds exactly when the bits suffice; then the cursor moves by the width and the value fits it (R81). -/
theorem readField_some {b : Bits} {cur w v cur' : Nat} (h : readField b cur w = some (v, cur')) :
    cur + w ≤ b.length ∧ cur' = cur + w ∧ v = fromBits ((b.drop cur).take w) ∧ v < 2 ^ w := by
  unfold readField at h
  split at h
  · rename_i hle
    simp only [Option.some.injEq, Prod.mk.injEq] at h
    refine ⟨hle, h.2.symm, h.1.symm, ?_⟩
    have hl : ((b.drop cur).take w).length = w := by
      rw [List.length_take, List.length_drop]; omega
    rw [← h.1]
    calc fromBits ((b.drop cur).take w) < 2 ^ ((b.drop cur).take w).length := fromBits_lt _
      _ = 2 ^ w := by rw [hl]
  · cases h

theorem readField_eq_none {b : Bits} {cur w : Nat} : readField b cur w = none ↔ b.length < cur + w := by
  unfold readField
  split <;> simp <;> omega

/-- READ_FIELD of a field written behind `pre`. -/
theorem readField_toBits (pre post : Bits) {w v : Nat} (h : v < 2 ^ w) :
    readField (pre ++ toBits w v ++ post) pre.length w = some (v, pre.length + w) := by
  unfold readField
  rw [if_pos (by simp only [List.length_append, toBits_length]; omega)]
  have : ((pre ++ toBits w v ++ post).drop pre.length).take w = toBits w v := by
    rw [List.append_assoc, List.drop_left]
    exact List.take_left' (toBits_length w v)
  rw [this, fromBits_toBits h]

end Sys2Proof.Machine
end

