-- ==== Sys2Proof/Laws/Codecs.lean ====
section
/-! SUPPORT. What the component codecs answer: bands and pairs (R72 to R74), pair loops (R75, R77), addresses (R66 to R68), headers and builders
(R82, R87). -/

namespace Sys2Proof.Machine

/-! ## Pulses -/

theorem inBand_iff (c : Config) (d ref : Nat) :
    inBand c d ref = true ↔ ref - c.tolerance ≤ d ∧ d ≤ ref + c.tolerance := by
  unfold inBand absDiff
  rw [decide_eq_true_iff]
  split <;> omega

/-- The order and the distance of the bands in a legal configuration (R6 (e), (f)). -/
theorem legal_bands {c : Config} (h : c.Legal) :
    c.tolerance ≤ c.pulseLow ∧ c.pulseLow + c.tolerance < c.pulseHigh - c.tolerance ∧
      c.pulseHigh + c.tolerance < c.pulseFooter - c.tolerance ∧ c.pulseFooter + c.tolerance ≤ 2 ^ c.durWidth - 1 :=
  ⟨h.2.2.2.2.1.1, h.2.2.2.2.1.2.1, h.2.2.2.2.1.2.2, h.2.2.2.2.2⟩

theorem classify_pulseLow (c : Config) : classify c c.pulseLow = .low := by
  simp [classify, inBand, absDiff]

theorem classify_pulseHigh {c : Config} (h : c.Legal) : classify c c.pulseHigh = .high := by
  have hb := legal_bands h
  have h1 : inBand c c.pulseHigh c.pulseLow = false := by
    rw [Bool.eq_false_iff, Ne, inBand_iff]; omega
  have h2 : inBand c c.pulseHigh c.pulseHigh = true := by rw [inBand_iff]; omega
  simp [classify, h1, h2]

theorem classify_pulseFooter {c : Config} (h : c.Legal) : classify c c.pulseFooter = .footer := by
  have hb := legal_bands h
  have h1 : inBand c c.pulseFooter c.pulseLow = false := by
    rw [Bool.eq_false_iff, Ne, inBand_iff]; omega
  have h2 : inBand c c.pulseFooter c.pulseHigh = false := by
    rw [Bool.eq_false_iff, Ne, inBand_iff]; omega
  have h3 : inBand c c.pulseFooter c.pulseFooter = true := by rw [inBand_iff]; omega
  simp [classify, h1, h2, h3]

theorem pairToBit_false {c : Config} {d0 d1 : Nat} :
    pairToBit c d0 d1 = some false ↔ classify c d0 = .low ∧ classify c d1 = .high := by
  unfold pairToBit
  cases classify c d0 <;> cases classify c d1 <;> simp

theorem pairToBit_true {c : Config} {d0 d1 : Nat} :
    pairToBit c d0 d1 = some true ↔ classify c d0 = .high ∧ classify c d1 = .low := by
  unfold pairToBit
  cases classify c d0 <;> cases classify c d1 <;> simp

theorem isTrailer_iff {c : Config} {d0 d1 : Nat} :
    isTrailer c d0 d1 = true ↔ classify c d0 = .high ∧ classify c d1 = .footer := by
  simp [isTrailer]

/-- A trailer is no symbol (R74). -/
theorem pairToBit_of_isTrailer {c : Config} {d0 d1 : Nat} (h : isTrailer c d0 d1 = true) : pairToBit c d0 d1 = none := by
  obtain ⟨h0, h1⟩ := isTrailer_iff.mp h
  simp [pairToBit, h0, h1]

@[simp] theorem bitToPair_length (c : Config) (b : Bool) : (bitToPair c b).length = 2 := by
  cases b <;> rfl

@[simp] theorem flatMap_bitToPair_length (c : Config) (b : Bits) : (b.flatMap (bitToPair c)).length = 2 * b.length := by
  induction b with
  | nil => rfl
  | cons x xs ih => rw [List.flatMap_cons, List.length_append, ih, bitToPair_length, List.length_cons]; omega

@[simp] theorem pulseEncode_length (c : Config) (b : Bits) : (pulseEncode c b).length = 2 * b.length + 2 := by
  rw [pulseEncode, List.length_append, flatMap_bitToPair_length]
  rfl

/-- The pair loop reads back what the encoder writes (R74). -/
theorem readPairs_flatMap {c : Config} (h : c.Legal) (b : Bits) : readPairs c (b.flatMap (bitToPair c)) = (b, true) := by
  induction b with
  | nil => rfl
  | cons x xs ih =>
    have hp : ∀ d0 d1, bitToPair c x = [d0, d1] → pairToBit c d0 d1 = some x := by
      intro d0 d1 hd
      cases x
      · simp only [bitToPair, Bool.false_eq_true, ↓reduceIte, List.cons.injEq, and_true] at hd
        rw [← hd.1, ← hd.2, pairToBit_false]
        exact ⟨classify_pulseLow c, classify_pulseHigh h⟩
      · simp only [bitToPair, ↓reduceIte, List.cons.injEq, and_true] at hd
        rw [← hd.1, ← hd.2, pairToBit_true]
        exact ⟨classify_pulseHigh h, classify_pulseLow c⟩
    obtain ⟨d0, d1, hd⟩ : ∃ d0 d1, bitToPair c x = [d0, d1] := by cases x <;> exact ⟨_, _, rfl⟩
    rw [List.flatMap_cons, hd]
    simp [readPairs, hp d0 d1 hd, ih]

/-- At most one bit per pair. -/
theorem readPairs_length (c : Config) (p : Train) : 2 * (readPairs c p).1.length ≤ p.length := by
  induction p using readPairs.induct c with
  | case1 => simp [readPairs]
  | case2 d => simp [readPairs]
  | case3 d0 d1 rest h => simp [readPairs, h]
  | case4 d0 d1 rest b h ih => simp [readPairs, h]; omega

/-- A train with two pulses behind `p`: what the trailer test looks at (R94, R95). -/
theorem endsInTrailer_append (c : Config) (p : Train) (d0 d1 : Nat) :
    endsInTrailer c (p ++ [d0, d1]) = isTrailer c d0 d1 := by
  simp [endsInTrailer]

theorem endsInTrailer_short (c : Config) {p : Train} (h : p.length < 2) : endsInTrailer c p = false := by
  match p, h with
  | [], _ => rfl
  | [_], _ => rfl

/-- What PULSE_DECODE decodes is short enough for BITS (R75 (a)). -/
theorem pulseDecode_length {c : Config} {p : Train} {ovf : Bool} {b : Bits} (h : pulseDecode c p ovf = some b) :
    2 * b.length + 2 ≤ p.length := by
  unfold pulseDecode at h
  split at h
  · rename_i hw
    simp only [trainIsWhole, Bool.and_eq_true, decide_eq_true_iff] at hw
    dsimp only at h
    split at h
    · cases h
      have := readPairs_length c (dataPulses p)
      simp only [dataPulses, List.length_take] at this ⊢
      omega
    · cases h
  · cases h

/-! ## Addresses -/

@[simp] theorem alphabet_length : alphabet.length = 64 := by decide

theorem digitValue_digitChar {v : Nat} (h : v < 64) : digitValue (digitChar v) = some v := by
  have : ∀ v : Fin 64, digitValue (digitChar v) = some v.val := by decide
  exact this ⟨v, h⟩

theorem digitChar_digitValue {c : Byte} {v : Nat} (h : digitValue c = some v) : v < 64 ∧ digitChar v = c := by
  have key : ∀ c : Byte, ∀ v ∈ digitValue c, v < 64 ∧ digitChar v = c := by decide
  exact key c v h

theorem parseDigits_append (acc : Nat) (s t : Text) :
    parseDigits acc (s ++ t) = (parseDigits acc s).bind fun a => parseDigits a t := by
  induction s generalizing acc with
  | nil => rfl
  | cons x xs ih =>
    simp only [List.cons_append, parseDigits]
    cases digitValue x with
    | none => rfl
    | some d => exact ih _

/-- The digits FORMAT_ADDRESS finds: they parse back to the number, there are at most `k`, and the first is `0` only for the number 0. -/
theorem radixDigits_spec (k a : Nat) (ds : Text) (h : a < 64 ^ (k + 1)) :
    ∃ e : Text, radixDigits (k + 1) a ds = e ++ ds ∧ 1 ≤ e.length ∧ e.length ≤ k + 1 ∧
      (∀ acc, parseDigits acc e = some (acc * 64 ^ e.length + a)) ∧ (e[0]? = some 0x30#8 ↔ a = 0) := by
  induction k generalizing a ds with
  | zero =>
    have ha : a < 64 := by simpa using h
    refine ⟨[digitChar a], ?_, by simp, by simp, ?_, ?_⟩
    · simp [radixDigits, Nat.mod_eq_of_lt ha, Nat.div_eq_of_lt ha]
    · intro acc; simp [parseDigits, digitValue_digitChar ha]
    · have : ∀ a : Fin 64, digitChar a.val = 0x30#8 ↔ a.val = 0 := by decide
      simpa using this ⟨a, ha⟩
  | succ k ih =>
    have hm : a % 64 < 64 := Nat.mod_lt _ (by norm_num)
    by_cases hz : a / 64 = 0
    · have ha : a < 64 := by omega
      refine ⟨[digitChar a], ?_, by simp, by simp, ?_, ?_⟩
      · rw [radixDigits]; simp [hz, Nat.mod_eq_of_lt ha]
      · intro acc; simp [parseDigits, digitValue_digitChar ha]
      · have : ∀ a : Fin 64, digitChar a.val = 0x30#8 ↔ a.val = 0 := by decide
        simpa using this ⟨a, ha⟩
    · have hd : a / 64 < 64 ^ (k + 1) := by
        rw [pow_succ] at h
        exact Nat.div_lt_of_lt_mul (by omega)
      obtain ⟨e, he, h1, h2, h3, h4⟩ := ih (a / 64) (digitChar (a % 64) :: ds) hd
      refine ⟨e ++ [digitChar (a % 64)], ?_, by simp, by simp; omega, ?_, ?_⟩
      · rw [radixDigits]; simp [hz, he]
      · intro acc
        rw [parseDigits_append, h3]
        simp only [Option.bind_some, parseDigits, digitValue_digitChar hm, List.length_append, List.length_cons,
          List.length_nil, pow_succ]
        congr 1
        have := Nat.div_add_mod a 64
        nlinarith
      · rw [List.getElem?_append_left (by omega), h4]
        constructor
        · intro h0; exact absurd h0 hz
        · intro h0; subst h0; exact absurd rfl hz

/-- FORMAT_ADDRESS of a number below 64^5 (R68): the tag and one to five digits, which parse back. -/
theorem formatAddress_spec {a : Nat} (h : a < 2 ^ 30) :
    ∃ e : Text, formatAddress a = [0x30#8, 0x61#8] ++ e ∧ 1 ≤ e.length ∧ e.length ≤ 5 ∧
      parseDigits 0 e = some a ∧ (e[0]? = some 0x30#8 ↔ a = 0) := by
  obtain ⟨e, he, h1, h2, h3, h4⟩ := radixDigits_spec 4 a [] (by norm_num at h ⊢; omega)
  refine ⟨e, ?_, h1, h2, ?_, h4⟩
  · simp [formatAddress, he]
  · simpa using h3 0

/-- FORMAT_ADDRESS never gives more than the seven slots of a message string (R71). -/
theorem formatAddress_length (a : Nat) : (formatAddress a).length ≤ 7 := by
  have key : ∀ k a ds, (radixDigits k a ds).length ≤ k + ds.length := by
    intro k
    induction k with
    | zero => intro a ds; simp [radixDigits]
    | succ k ih =>
      intro a ds
      rw [radixDigits]
      split
      · simp
      · have := ih (a / 64) (digitChar (a % 64) :: ds)
        simp only [List.length_cons] at this
        omega
  have := key 5 a []
  simp only [formatAddress, List.length_append, List.length_cons, List.length_nil] at this ⊢
  omega

/-- An Address of a legal configuration fits five digits and its field (R6 (a), (b)). -/
theorem legal_address {c : Config} (h : c.Legal) {a : Nat} (ha : a ≤ c.idMax) : a < 2 ^ c.idBits ∧ a < 2 ^ 30 := by
  have h1 : c.idMax ≤ 2 ^ c.idBits - 1 := h.2.1.2
  have h2 : 2 ^ c.idBits ≤ 2 ^ 30 := Nat.pow_le_pow_right (by norm_num) h.1.2
  have h3 : 0 < 2 ^ c.idBits := by positivity
  omega

/-- PARSE_ADDRESS answers Addresses only (R67). -/
theorem parseAddress_le {c : Config} {s : Option Text} {a : Nat} (h : parseAddress c s = some a) : a ≤ c.idMax := by
  cases s with
  | none => cases h
  | some s =>
    simp only [parseAddress, parseText] at h
    split at h
    · cases h
    · split at h
      · cases h
      · split at h
        · cases h
        · split at h
          · cases h
          · cases h; omega

/-- What PARSE_ADDRESS accepts: the tag and one to five characters that the digit loop reads, with a value up to ID_MAX (R67). -/
theorem parseAddress_some {c : Config} {s : Text} {v : Nat} :
    parseAddress c (some s) = some v ↔
    ∃ e : Text, s = [0x30#8, 0x61#8] ++ e ∧ 1 ≤ e.length ∧ e.length ≤ 5 ∧ parseDigits 0 e = some v ∧ v ≤ c.idMax := by
  constructor
  · intro h
    simp only [parseAddress, parseText] at h
    split at h
    · cases h
    · rename_i hl
      split at h
      · cases h
      · rename_i ht
        split at h
        · cases h
        · rename_i acc ha
          split at h
          · cases h
          · cases h
            refine ⟨s.drop 2, ?_, ?_, ?_, ha, by omega⟩
            · rw [← not_not.mp ht, List.take_append_drop]
            · simp; omega
            · simp; omega
  · rintro ⟨e, rfl, h1, h2, h3, h4⟩
    simp only [parseAddress, parseText]
    rw [if_neg (by simp; omega)]
    simp [h3]
    omega

/-- What the digit loop reads: characters of the class, radix 64 (R45). -/
theorem parseDigits_some {acc v : Nat} {e : Text} :
    parseDigits acc e = some v ↔
    ∃ ds : List Nat, (∀ d ∈ ds, d < 64) ∧ e = ds.map digitChar ∧ v = ds.foldl (fun a d => a * 64 + d) acc := by
  induction e generalizing acc with
  | nil =>
    constructor
    · intro h; cases h; exact ⟨[], by simp, rfl, rfl⟩
    · rintro ⟨ds, _, h, hv⟩
      have : ds = [] := by simpa using h.symm
      subst this; simp [parseDigits, hv]
  | cons c cs ih =>
    simp only [parseDigits]
    constructor
    · intro h
      split at h
      · cases h
      · rename_i d hd
        obtain ⟨ds, h1, h2, h3⟩ := ih.mp h
        have := digitChar_digitValue hd
        exact ⟨d :: ds, by simp; exact ⟨this.1, h1⟩, by simp [this.2, h2], by simpa using h3⟩
    · rintro ⟨ds, h1, h2, h3⟩
      cases ds with
      | nil => simp at h2
      | cons d ds =>
        simp only [List.map_cons, List.cons.injEq] at h2
        rw [h2.1, digitValue_digitChar (h1 d (by simp))]
        exact ih.mpr ⟨ds, fun x hx => h1 x (by simp [hx]), h2.2, h3⟩

/-! ## Frames -/

/-- Every builder succeeds: the sizing pass and the fill pass agree (R87, R91). -/
theorem buildFor_eq (c : Config) (r : Request) (sys unit : Nat) :
    buildFor c r sys unit = some (headerBits c.idBits c.protocolId sys unit (r.code c)) := by
  have h : ∀ k, build c k sys unit = some (headerBits c.idBits c.protocolId sys unit k) := by
    intro k
    simp only [build, buildFill, buildSize, headerBits_length]
    rw [if_pos (by omega)]
  cases r <;> simp [buildFor, buildOn, buildOff, buildStateQuery, h, Request.code]

@[simp] theorem buildSize_eq (c : Config) (k sys unit : Nat) : buildSize c k sys unit = 4 * c.idBits := by
  simp only [buildSize]; omega

/-- The header of `headerBits`, whatever follows it (R50, R81). -/
theorem readHeader_headerBits (c : Config) {proto toSys toUnit cmd : Nat} (post : Bits) (hp : proto = c.protocolId)
    (h0 : proto < 2 ^ c.idBits) (h1 : toSys < 2 ^ c.idBits) (h2 : toUnit < 2 ^ c.idBits) (h3 : cmd < 2 ^ c.idBits) :
    readHeader c (headerBits c.idBits proto toSys toUnit cmd ++ post) = (some ⟨proto, toSys, toUnit, cmd⟩, 4 * c.idBits) := by
  have e : headerBits c.idBits proto toSys toUnit cmd ++ post =
      toBits c.idBits proto ++ (toBits c.idBits toSys ++ (toBits c.idBits toUnit ++ (toBits c.idBits cmd ++ post))) := by
    simp [headerBits]
  have r0 := readField_toBits [] (toBits c.idBits toSys ++ (toBits c.idBits toUnit ++ (toBits c.idBits cmd ++ post))) h0
  have r1 := readField_toBits (toBits c.idBits proto) (toBits c.idBits toUnit ++ (toBits c.idBits cmd ++ post)) h1
  have r2 := readField_toBits (toBits c.idBits proto ++ toBits c.idBits toSys) (toBits c.idBits cmd ++ post) h2
  have r3 := readField_toBits (toBits c.idBits proto ++ toBits c.idBits toSys ++ toBits c.idBits toUnit) post h3
  simp only [List.nil_append, List.length_nil, Nat.zero_add, List.length_append, toBits_length, List.append_assoc] at r0 r1 r2 r3
  rw [e]
  unfold readHeader
  rw [r0]
  simp only [hp, ne_eq, not_true_eq_false, ↓reduceIte]
  rw [hp] at r1 r2 r3
  rw [r1]
  simp only
  rw [r2]
  simp only
  rw [← Nat.add_assoc c.idBits c.idBits c.idBits] at r3
  rw [r3]
  simp only [Prod.mk.injEq, true_and]
  omega

theorem readHeader_cursor (c : Config) (b : Bits) : (readHeader c b).2 ≤ b.length := by
  unfold readHeader
  split
  · simp
  · rename_i v0 k0 h0
    have e0 := readField_some h0
    split
    · simp only []; omega
    · split
      · simp only []; omega
      · rename_i v1 k1 h1
        have e1 := readField_some h1
        split
        · simp only []; omega
        · rename_i v2 k2 h2
          have e2 := readField_some h2
          split
          · simp only []; omega
          · rename_i v3 k3 h3
            have e3 := readField_some h3
            simp only []; omega

/-- A header is read from the first four fields, and carries this protocol's id (R50, R82). -/
theorem readHeader_some {c : Config} {b : Bits} {f : Frame} {k : Nat} (h : readHeader c b = (some f, k)) :
    k = 4 * c.idBits ∧ k ≤ b.length ∧ f.proto = c.protocolId := by
  unfold readHeader at h
  split at h
  · cases h
  · rename_i p k1 h1
    split at h
    · cases h
    · rename_i hp
      split at h
      · cases h
      · rename_i a k2 h2
        split at h
        · cases h
        · rename_i a3 k3 h3
          split at h
          · cases h
          · rename_i a4 k4 h4
            cases h
            have := readField_some h1
            have := readField_some h2
            have := readField_some h3
            have := readField_some h4
            refine ⟨by omega, by omega, by simpa using hp⟩

/-- What DECODE_FRAME constructs is acceptable, and its cursor is within the bits (R82). -/
theorem decodeFrame_some {c : Config} {b : Bits} {f : Frame} {k : Nat} (h : decodeFrame c b = (some f, k)) :
    f.acceptable c = true ∧ readHeader c b = (some f, k) := by
  unfold decodeFrame at h
  split at h
  · rename_i f' k' hr
    split at h
    · rename_i ha
      cases h
      exact ⟨ha, hr⟩
    · cases h
  · cases h

theorem decodeFrame_cursor (c : Config) (b : Bits) : (decodeFrame c b).2 ≤ b.length := by
  have h := readHeader_cursor c b
  unfold decodeFrame
  split
  · rename_i f k hr
    rw [hr] at h
    split <;> exact h
  · rename_i k hr
    rw [hr] at h
    exact h

/-- What DECODE_STATE_INFORM constructs is acceptable (R85). -/
theorem decodeStateInform_some {c : Config} {b : Bits} {cur k : Nat} {p : Payload} (h : decodeStateInform c b cur = (some p, k)) :
    p.acceptable c = true ∧ readPayload c b cur = (some p, k) := by
  unfold decodeStateInform at h
  split at h
  · rename_i p' k' hr
    split at h
    · rename_i ha
      cases h
      exact ⟨ha, hr⟩
    · cases h
  · cases h

theorem readPayload_cursor (c : Config) {b : Bits} {cur : Nat} (hc : cur ≤ b.length) : (readPayload c b cur).2 ≤ b.length := by
  unfold readPayload
  split
  · exact hc
  · rename_i v k h1
    have e1 := readField_some h1
    split
    · simp only []; omega
    · rename_i v2 k2 h2
      have e2 := readField_some h2
      split
      · simp only []; omega
      · rename_i v3 k3 h3
        have e3 := readField_some h3
        simp only []; omega

theorem decodeStateInform_cursor (c : Config) {b : Bits} {cur : Nat} (hc : cur ≤ b.length) :
    (decodeStateInform c b cur).2 ≤ b.length := by
  have h := readPayload_cursor c hc
  unfold decodeStateInform
  split
  · rename_i f k hr
    rw [hr] at h
    split <;> exact h
  · rename_i k hr
    rw [hr] at h
    exact h

/-- A payload is two fields and a bit (R53). -/
theorem readPayload_some {c : Config} {b : Bits} {cur k : Nat} {p : Payload} (h : readPayload c b cur = (some p, k)) :
    k = cur + 2 * c.idBits + 1 ∧ k ≤ b.length := by
  unfold readPayload at h
  split at h
  · cases h
  · rename_i v1 k1 h1
    split at h
    · cases h
    · rename_i v2 k2 h2
      split at h
      · cases h
      · rename_i v3 k3 h3
        cases h
        have := readField_some h1
        have := readField_some h2
        have := readField_some h3
        omega

/-- The payload behind `pre`, whatever follows it (R53, R81). -/
theorem readPayload_bits (c : Config) (pre post : Bits) {sys unit : Nat} (st : Bool) (h1 : sys < 2 ^ c.idBits)
    (h2 : unit < 2 ^ c.idBits) :
    readPayload c (pre ++ toBits c.idBits sys ++ toBits c.idBits unit ++ [st] ++ post) pre.length =
      (some ⟨sys, unit, st⟩, pre.length + 2 * c.idBits + 1) := by
  have e : pre ++ toBits c.idBits sys ++ toBits c.idBits unit ++ [st] ++ post = pre ++ (toBits c.idBits sys ++ (toBits c.idBits unit ++ ([st] ++ post))) := by simp
  have r0 := readField_toBits pre (toBits c.idBits unit ++ ([st] ++ post)) h1
  have r1 := readField_toBits (pre ++ toBits c.idBits sys) ([st] ++ post) h2
  have r2 : readField (pre ++ toBits c.idBits sys ++ toBits c.idBits unit ++ [st] ++ post) (pre ++ toBits c.idBits sys ++ toBits c.idBits unit).length 1 = some (st.toNat, (pre ++ toBits c.idBits sys ++ toBits c.idBits unit).length + 1) := by
    unfold readField
    rw [if_pos (by simp)]
    have : List.take 1 (List.drop (pre ++ toBits c.idBits sys ++ toBits c.idBits unit).length (pre ++ toBits c.idBits sys ++ toBits c.idBits unit ++ [st] ++ post)) = [st] := by
      rw [List.append_assoc _ [st] post, List.drop_left]; rfl
    rw [this]; simp [fromBits]
  simp only [List.length_append, toBits_length, List.append_assoc] at r0 r1 r2
  unfold readPayload
  simp only [List.append_assoc]
  rw [r0]; simp only
  rw [r1]; simp only
  rw [← Nat.add_assoc] at r2
  rw [r2]
  cases st <;> simp <;> omega

end Sys2Proof.Machine
end

