-- ==== Sys2Proof/Laws/Fields.lean ====
section
/-! SUPPORT. The fields of a frame as the table's decoder reads them back (R50, R51, R53). -/

namespace Sys2Proof.Machine

theorem frameField_protocol (n a b c d : Nat) (post : Bits) (h : a < 2 ^ n) :
    frameField n 0 (headerBits n a b c d ++ post) = a := by
  unfold frameField headerBits
  simp only [Nat.zero_mul, List.drop_zero, List.append_assoc]
  rw [List.take_left' (toBits_length n a), fromBits_toBits h]

theorem frameField_toSystem (n a b c d : Nat) (post : Bits) (h : b < 2 ^ n) :
    frameField n 1 (headerBits n a b c d ++ post) = b := by
  unfold frameField headerBits
  simp only [Nat.one_mul, List.append_assoc]
  rw [List.drop_left' (toBits_length n a), List.take_left' (toBits_length n b), fromBits_toBits h]

theorem frameField_toUnit (n a b c d : Nat) (post : Bits) (h : c < 2 ^ n) :
    frameField n 2 (headerBits n a b c d ++ post) = c := by
  unfold frameField headerBits
  rw [show toBits n a ++ toBits n b ++ toBits n c ++ toBits n d ++ post = (toBits n a ++ toBits n b) ++ (toBits n c ++ (toBits n d ++ post)) by simp]
  rw [List.drop_left' (by simp; omega), List.take_left' (toBits_length n c), fromBits_toBits h]

theorem frameField_command (n a b c d : Nat) (post : Bits) (h : d < 2 ^ n) :
    frameField n 3 (headerBits n a b c d ++ post) = d := by
  unfold frameField headerBits
  rw [show toBits n a ++ toBits n b ++ toBits n c ++ toBits n d ++ post = (toBits n a ++ toBits n b ++ toBits n c) ++ (toBits n d ++ post) by simp]
  rw [List.drop_left' (by simp; omega), List.take_left' (toBits_length n d), fromBits_toBits h]

theorem frameField_systemcode (n a b c d : Nat) (x : Nat) (post : Bits) (h : x < 2 ^ n) :
    frameField n 4 (headerBits n a b c d ++ toBits n x ++ post) = x := by
  unfold frameField
  rw [List.append_assoc, List.drop_left' (by simp), List.take_left' (toBits_length n x), fromBits_toBits h]

theorem frameField_unitcode (n a b c d : Nat) (x y : Nat) (post : Bits) (h : y < 2 ^ n) :
    frameField n 5 (headerBits n a b c d ++ toBits n x ++ toBits n y ++ post) = y := by
  unfold frameField
  rw [List.append_assoc, List.drop_left' (by simp; omega), List.take_left' (toBits_length n y), fromBits_toBits h]

theorem frameState_state (n a b c d : Nat) (x y : Nat) (q : Bool) (post : Bits) :
    frameState n (informBits n a b c d x y q ++ post) = q := by
  unfold frameState informBits
  rw [List.append_assoc, List.getD_append_right _ _ _ _ (by simp; omega)]
  simp
  rw [show 6 * n - (4 * n + (n + n)) = 0 by omega]; rfl

end Sys2Proof.Machine
end

