-- ==== Sys2Proof/Laws/State.lean ====
section
/-! SUPPORT. One lemma per field per named update of State, each true by rfl, so that no later proof unfolds a record update. -/

namespace Sys2Proof.Machine

section clearWorking

@[simp] theorem clearWorking_cfg (s : State) : (clearWorking s).cfg = s.cfg := rfl
@[simp] theorem clearWorking_pin (s : State) : (clearWorking s).pin = s.pin := rfl
@[simp] theorem clearWorking_pinOvf (s : State) : (clearWorking s).pinOvf = s.pinOvf := rfl
@[simp] theorem clearWorking_reqSys (s : State) : (clearWorking s).reqSys = s.reqSys := rfl
@[simp] theorem clearWorking_reqUnit (s : State) : (clearWorking s).reqUnit = s.reqUnit := rfl
@[simp] theorem clearWorking_reqCmd (s : State) : (clearWorking s).reqCmd = s.reqCmd := rfl
@[simp] theorem clearWorking_op (s : State) : (clearWorking s).op = s.op := rfl
@[simp] theorem clearWorking_start (s : State) : (clearWorking s).start = s.start := rfl
@[simp] theorem clearWorking_bits (s : State) : (clearWorking s).bits = [] := rfl
@[simp] theorem clearWorking_pulseIdx (s : State) : (clearWorking s).pulseIdx = 0 := rfl
@[simp] theorem clearWorking_cur (s : State) : (clearWorking s).cur = 0 := rfl
@[simp] theorem clearWorking_aSys (s : State) : (clearWorking s).aSys = none := rfl
@[simp] theorem clearWorking_aUnit (s : State) : (clearWorking s).aUnit = none := rfl
@[simp] theorem clearWorking_frame (s : State) : (clearWorking s).frame = none := rfl
@[simp] theorem clearWorking_payload (s : State) : (clearWorking s).payload = none := rfl
@[simp] theorem clearWorking_sizeReq (s : State) : (clearWorking s).sizeReq = 0 := rfl
@[simp] theorem clearWorking_pout (s : State) : (clearWorking s).pout = s.pout := rfl
@[simp] theorem clearWorking_repeatCount (s : State) : (clearWorking s).repeatCount = s.repeatCount := rfl
@[simp] theorem clearWorking_msgSys (s : State) : (clearWorking s).msgSys = s.msgSys := rfl
@[simp] theorem clearWorking_msgUnit (s : State) : (clearWorking s).msgUnit = s.msgUnit := rfl
@[simp] theorem clearWorking_msgState (s : State) : (clearWorking s).msgState = s.msgState := rfl
@[simp] theorem clearWorking_msgValid (s : State) : (clearWorking s).msgValid = s.msgValid := rfl
@[simp] theorem clearWorking_status (s : State) : (clearWorking s).status = s.status := rfl
@[simp] theorem clearWorking_reason (s : State) : (clearWorking s).reason = s.reason := rfl
@[simp] theorem clearWorking_busy (s : State) : (clearWorking s).busy = s.busy := rfl
@[simp] theorem clearWorking_done (s : State) : (clearWorking s).done = s.done := rfl
@[simp] theorem clearWorking_fatal (s : State) : (clearWorking s).fatal = s.fatal := rfl
@[simp] theorem clearWorking_opRun (s : State) : (clearWorking s).opRun = s.opRun := rfl
@[simp] theorem clearWorking_hold (s : State) : (clearWorking s).hold = s.hold := rfl
@[simp] theorem clearWorking_host (s : State) : (clearWorking s).host = s.host := rfl
@[simp] theorem clearWorking_present (s : State) : (clearWorking s).present = s.present := rfl
@[simp] theorem clearWorking_freeIdx (s : State) : (clearWorking s).freeIdx = s.freeIdx := rfl

end clearWorking

section clearOutputs

@[simp] theorem clearOutputs_cfg (s : State) : (clearOutputs s).cfg = s.cfg := rfl
@[simp] theorem clearOutputs_pin (s : State) : (clearOutputs s).pin = s.pin := rfl
@[simp] theorem clearOutputs_pinOvf (s : State) : (clearOutputs s).pinOvf = s.pinOvf := rfl
@[simp] theorem clearOutputs_reqSys (s : State) : (clearOutputs s).reqSys = s.reqSys := rfl
@[simp] theorem clearOutputs_reqUnit (s : State) : (clearOutputs s).reqUnit = s.reqUnit := rfl
@[simp] theorem clearOutputs_reqCmd (s : State) : (clearOutputs s).reqCmd = s.reqCmd := rfl
@[simp] theorem clearOutputs_op (s : State) : (clearOutputs s).op = s.op := rfl
@[simp] theorem clearOutputs_start (s : State) : (clearOutputs s).start = s.start := rfl
@[simp] theorem clearOutputs_bits (s : State) : (clearOutputs s).bits = s.bits := rfl
@[simp] theorem clearOutputs_pulseIdx (s : State) : (clearOutputs s).pulseIdx = s.pulseIdx := rfl
@[simp] theorem clearOutputs_cur (s : State) : (clearOutputs s).cur = s.cur := rfl
@[simp] theorem clearOutputs_aSys (s : State) : (clearOutputs s).aSys = s.aSys := rfl
@[simp] theorem clearOutputs_aUnit (s : State) : (clearOutputs s).aUnit = s.aUnit := rfl
@[simp] theorem clearOutputs_frame (s : State) : (clearOutputs s).frame = s.frame := rfl
@[simp] theorem clearOutputs_payload (s : State) : (clearOutputs s).payload = s.payload := rfl
@[simp] theorem clearOutputs_sizeReq (s : State) : (clearOutputs s).sizeReq = s.sizeReq := rfl
@[simp] theorem clearOutputs_pout (s : State) : (clearOutputs s).pout = [] := rfl
@[simp] theorem clearOutputs_repeatCount (s : State) : (clearOutputs s).repeatCount = 0#5 := rfl
@[simp] theorem clearOutputs_msgSys (s : State) : (clearOutputs s).msgSys = [] := rfl
@[simp] theorem clearOutputs_msgUnit (s : State) : (clearOutputs s).msgUnit = [] := rfl
@[simp] theorem clearOutputs_msgState (s : State) : (clearOutputs s).msgState = none := rfl
@[simp] theorem clearOutputs_msgValid (s : State) : (clearOutputs s).msgValid = false := rfl
@[simp] theorem clearOutputs_status (s : State) : (clearOutputs s).status = s.status := rfl
@[simp] theorem clearOutputs_reason (s : State) : (clearOutputs s).reason = s.reason := rfl
@[simp] theorem clearOutputs_busy (s : State) : (clearOutputs s).busy = s.busy := rfl
@[simp] theorem clearOutputs_done (s : State) : (clearOutputs s).done = s.done := rfl
@[simp] theorem clearOutputs_fatal (s : State) : (clearOutputs s).fatal = s.fatal := rfl
@[simp] theorem clearOutputs_opRun (s : State) : (clearOutputs s).opRun = s.opRun := rfl
@[simp] theorem clearOutputs_hold (s : State) : (clearOutputs s).hold = s.hold := rfl
@[simp] theorem clearOutputs_host (s : State) : (clearOutputs s).host = s.host := rfl
@[simp] theorem clearOutputs_present (s : State) : (clearOutputs s).present = s.present := rfl
@[simp] theorem clearOutputs_freeIdx (s : State) : (clearOutputs s).freeIdx = s.freeIdx := rfl

end clearOutputs

section acceptStart

@[simp] theorem acceptStart_cfg (op : BitVec 2) (s : State) : (acceptStart op s).cfg = s.cfg := rfl
@[simp] theorem acceptStart_pin (op : BitVec 2) (s : State) : (acceptStart op s).pin = s.pin := rfl
@[simp] theorem acceptStart_pinOvf (op : BitVec 2) (s : State) : (acceptStart op s).pinOvf = s.pinOvf := rfl
@[simp] theorem acceptStart_reqSys (op : BitVec 2) (s : State) : (acceptStart op s).reqSys = s.reqSys := rfl
@[simp] theorem acceptStart_reqUnit (op : BitVec 2) (s : State) : (acceptStart op s).reqUnit = s.reqUnit := rfl
@[simp] theorem acceptStart_reqCmd (op : BitVec 2) (s : State) : (acceptStart op s).reqCmd = s.reqCmd := rfl
@[simp] theorem acceptStart_op (op : BitVec 2) (s : State) : (acceptStart op s).op = s.op := rfl
@[simp] theorem acceptStart_start (op : BitVec 2) (s : State) : (acceptStart op s).start = s.start := rfl
@[simp] theorem acceptStart_bits (op : BitVec 2) (s : State) : (acceptStart op s).bits = [] := rfl
@[simp] theorem acceptStart_pulseIdx (op : BitVec 2) (s : State) : (acceptStart op s).pulseIdx = 0 := rfl
@[simp] theorem acceptStart_cur (op : BitVec 2) (s : State) : (acceptStart op s).cur = 0 := rfl
@[simp] theorem acceptStart_aSys (op : BitVec 2) (s : State) : (acceptStart op s).aSys = none := rfl
@[simp] theorem acceptStart_aUnit (op : BitVec 2) (s : State) : (acceptStart op s).aUnit = none := rfl
@[simp] theorem acceptStart_frame (op : BitVec 2) (s : State) : (acceptStart op s).frame = none := rfl
@[simp] theorem acceptStart_payload (op : BitVec 2) (s : State) : (acceptStart op s).payload = none := rfl
@[simp] theorem acceptStart_sizeReq (op : BitVec 2) (s : State) : (acceptStart op s).sizeReq = 0 := rfl
@[simp] theorem acceptStart_pout (op : BitVec 2) (s : State) : (acceptStart op s).pout = [] := rfl
@[simp] theorem acceptStart_repeatCount (op : BitVec 2) (s : State) : (acceptStart op s).repeatCount = 0#5 := rfl
@[simp] theorem acceptStart_msgSys (op : BitVec 2) (s : State) : (acceptStart op s).msgSys = [] := rfl
@[simp] theorem acceptStart_msgUnit (op : BitVec 2) (s : State) : (acceptStart op s).msgUnit = [] := rfl
@[simp] theorem acceptStart_msgState (op : BitVec 2) (s : State) : (acceptStart op s).msgState = none := rfl
@[simp] theorem acceptStart_msgValid (op : BitVec 2) (s : State) : (acceptStart op s).msgValid = false := rfl
@[simp] theorem acceptStart_status (op : BitVec 2) (s : State) : (acceptStart op s).status = Status.idle := rfl
@[simp] theorem acceptStart_reason (op : BitVec 2) (s : State) : (acceptStart op s).reason = Reason.none := rfl
@[simp] theorem acceptStart_busy (op : BitVec 2) (s : State) : (acceptStart op s).busy = true := rfl
@[simp] theorem acceptStart_done (op : BitVec 2) (s : State) : (acceptStart op s).done = false := rfl
@[simp] theorem acceptStart_fatal (op : BitVec 2) (s : State) : (acceptStart op s).fatal = s.fatal := rfl
@[simp] theorem acceptStart_opRun (op : BitVec 2) (s : State) : (acceptStart op s).opRun = op := rfl
@[simp] theorem acceptStart_hold (op : BitVec 2) (s : State) : (acceptStart op s).hold = s.hold := rfl
@[simp] theorem acceptStart_host (op : BitVec 2) (s : State) : (acceptStart op s).host = s.host := rfl
@[simp] theorem acceptStart_present (op : BitVec 2) (s : State) : (acceptStart op s).present = s.present := rfl
@[simp] theorem acceptStart_freeIdx (op : BitVec 2) (s : State) : (acceptStart op s).freeIdx = s.freeIdx := rfl

end acceptStart

section endOperation

@[simp] theorem endOperation_cfg (st : Status) (s : State) : (endOperation st s).cfg = s.cfg := rfl
@[simp] theorem endOperation_pin (st : Status) (s : State) : (endOperation st s).pin = s.pin := rfl
@[simp] theorem endOperation_pinOvf (st : Status) (s : State) : (endOperation st s).pinOvf = s.pinOvf := rfl
@[simp] theorem endOperation_reqSys (st : Status) (s : State) : (endOperation st s).reqSys = s.reqSys := rfl
@[simp] theorem endOperation_reqUnit (st : Status) (s : State) : (endOperation st s).reqUnit = s.reqUnit := rfl
@[simp] theorem endOperation_reqCmd (st : Status) (s : State) : (endOperation st s).reqCmd = s.reqCmd := rfl
@[simp] theorem endOperation_op (st : Status) (s : State) : (endOperation st s).op = s.op := rfl
@[simp] theorem endOperation_start (st : Status) (s : State) : (endOperation st s).start = s.start := rfl
@[simp] theorem endOperation_bits (st : Status) (s : State) : (endOperation st s).bits = s.bits := rfl
@[simp] theorem endOperation_pulseIdx (st : Status) (s : State) : (endOperation st s).pulseIdx = s.pulseIdx := rfl
@[simp] theorem endOperation_cur (st : Status) (s : State) : (endOperation st s).cur = s.cur := rfl
@[simp] theorem endOperation_aSys (st : Status) (s : State) : (endOperation st s).aSys = s.aSys := rfl
@[simp] theorem endOperation_aUnit (st : Status) (s : State) : (endOperation st s).aUnit = s.aUnit := rfl
@[simp] theorem endOperation_frame (st : Status) (s : State) : (endOperation st s).frame = s.frame := rfl
@[simp] theorem endOperation_payload (st : Status) (s : State) : (endOperation st s).payload = s.payload := rfl
@[simp] theorem endOperation_sizeReq (st : Status) (s : State) : (endOperation st s).sizeReq = s.sizeReq := rfl
@[simp] theorem endOperation_pout (st : Status) (s : State) : (endOperation st s).pout = s.pout := rfl
@[simp] theorem endOperation_repeatCount (st : Status) (s : State) : (endOperation st s).repeatCount = s.repeatCount := rfl
@[simp] theorem endOperation_msgSys (st : Status) (s : State) : (endOperation st s).msgSys = s.msgSys := rfl
@[simp] theorem endOperation_msgUnit (st : Status) (s : State) : (endOperation st s).msgUnit = s.msgUnit := rfl
@[simp] theorem endOperation_msgState (st : Status) (s : State) : (endOperation st s).msgState = s.msgState := rfl
@[simp] theorem endOperation_msgValid (st : Status) (s : State) : (endOperation st s).msgValid = s.msgValid := rfl
@[simp] theorem endOperation_status (st : Status) (s : State) : (endOperation st s).status = st := rfl
@[simp] theorem endOperation_reason (st : Status) (s : State) : (endOperation st s).reason = s.reason := rfl
@[simp] theorem endOperation_busy (st : Status) (s : State) : (endOperation st s).busy = false := rfl
@[simp] theorem endOperation_done (st : Status) (s : State) : (endOperation st s).done = true := rfl
@[simp] theorem endOperation_fatal (st : Status) (s : State) : (endOperation st s).fatal = s.fatal := rfl
@[simp] theorem endOperation_opRun (st : Status) (s : State) : (endOperation st s).opRun = s.opRun := rfl
@[simp] theorem endOperation_hold (st : Status) (s : State) : (endOperation st s).hold = s.hold := rfl
@[simp] theorem endOperation_host (st : Status) (s : State) : (endOperation st s).host = s.host := rfl
@[simp] theorem endOperation_present (st : Status) (s : State) : (endOperation st s).present = s.present := rfl
@[simp] theorem endOperation_freeIdx (st : Status) (s : State) : (endOperation st s).freeIdx = s.freeIdx := rfl

end endOperation

section failWith

@[simp] theorem failWith_cfg (st : Status) (s : State) : (failWith st s).cfg = s.cfg := rfl
@[simp] theorem failWith_pin (st : Status) (s : State) : (failWith st s).pin = s.pin := rfl
@[simp] theorem failWith_pinOvf (st : Status) (s : State) : (failWith st s).pinOvf = s.pinOvf := rfl
@[simp] theorem failWith_reqSys (st : Status) (s : State) : (failWith st s).reqSys = s.reqSys := rfl
@[simp] theorem failWith_reqUnit (st : Status) (s : State) : (failWith st s).reqUnit = s.reqUnit := rfl
@[simp] theorem failWith_reqCmd (st : Status) (s : State) : (failWith st s).reqCmd = s.reqCmd := rfl
@[simp] theorem failWith_op (st : Status) (s : State) : (failWith st s).op = s.op := rfl
@[simp] theorem failWith_start (st : Status) (s : State) : (failWith st s).start = s.start := rfl
@[simp] theorem failWith_bits (st : Status) (s : State) : (failWith st s).bits = s.bits := rfl
@[simp] theorem failWith_pulseIdx (st : Status) (s : State) : (failWith st s).pulseIdx = s.pulseIdx := rfl
@[simp] theorem failWith_cur (st : Status) (s : State) : (failWith st s).cur = s.cur := rfl
@[simp] theorem failWith_aSys (st : Status) (s : State) : (failWith st s).aSys = s.aSys := rfl
@[simp] theorem failWith_aUnit (st : Status) (s : State) : (failWith st s).aUnit = s.aUnit := rfl
@[simp] theorem failWith_frame (st : Status) (s : State) : (failWith st s).frame = s.frame := rfl
@[simp] theorem failWith_payload (st : Status) (s : State) : (failWith st s).payload = s.payload := rfl
@[simp] theorem failWith_sizeReq (st : Status) (s : State) : (failWith st s).sizeReq = s.sizeReq := rfl
@[simp] theorem failWith_pout (st : Status) (s : State) : (failWith st s).pout = [] := rfl
@[simp] theorem failWith_repeatCount (st : Status) (s : State) : (failWith st s).repeatCount = 0#5 := rfl
@[simp] theorem failWith_msgSys (st : Status) (s : State) : (failWith st s).msgSys = [] := rfl
@[simp] theorem failWith_msgUnit (st : Status) (s : State) : (failWith st s).msgUnit = [] := rfl
@[simp] theorem failWith_msgState (st : Status) (s : State) : (failWith st s).msgState = none := rfl
@[simp] theorem failWith_msgValid (st : Status) (s : State) : (failWith st s).msgValid = false := rfl
@[simp] theorem failWith_status (st : Status) (s : State) : (failWith st s).status = st := rfl
@[simp] theorem failWith_reason (st : Status) (s : State) : (failWith st s).reason = if st = .errArg then s.reason else .none := rfl
@[simp] theorem failWith_busy (st : Status) (s : State) : (failWith st s).busy = false := rfl
@[simp] theorem failWith_done (st : Status) (s : State) : (failWith st s).done = true := rfl
@[simp] theorem failWith_fatal (st : Status) (s : State) : (failWith st s).fatal = (s.fatal || decide (st = Status.fatalSizing)) := rfl
@[simp] theorem failWith_opRun (st : Status) (s : State) : (failWith st s).opRun = s.opRun := rfl
@[simp] theorem failWith_hold (st : Status) (s : State) : (failWith st s).hold = s.hold := rfl
@[simp] theorem failWith_host (st : Status) (s : State) : (failWith st s).host = s.host := rfl
@[simp] theorem failWith_present (st : Status) (s : State) : (failWith st s).present = s.present := rfl
@[simp] theorem failWith_freeIdx (st : Status) (s : State) : (failWith st s).freeIdx = s.freeIdx := rfl

end failWith

section failArgument

@[simp] theorem failArgument_cfg (r : Reason) (s : State) : (failArgument r s).cfg = s.cfg := rfl
@[simp] theorem failArgument_pin (r : Reason) (s : State) : (failArgument r s).pin = s.pin := rfl
@[simp] theorem failArgument_pinOvf (r : Reason) (s : State) : (failArgument r s).pinOvf = s.pinOvf := rfl
@[simp] theorem failArgument_reqSys (r : Reason) (s : State) : (failArgument r s).reqSys = s.reqSys := rfl
@[simp] theorem failArgument_reqUnit (r : Reason) (s : State) : (failArgument r s).reqUnit = s.reqUnit := rfl
@[simp] theorem failArgument_reqCmd (r : Reason) (s : State) : (failArgument r s).reqCmd = s.reqCmd := rfl
@[simp] theorem failArgument_op (r : Reason) (s : State) : (failArgument r s).op = s.op := rfl
@[simp] theorem failArgument_start (r : Reason) (s : State) : (failArgument r s).start = s.start := rfl
@[simp] theorem failArgument_bits (r : Reason) (s : State) : (failArgument r s).bits = s.bits := rfl
@[simp] theorem failArgument_pulseIdx (r : Reason) (s : State) : (failArgument r s).pulseIdx = s.pulseIdx := rfl
@[simp] theorem failArgument_cur (r : Reason) (s : State) : (failArgument r s).cur = s.cur := rfl
@[simp] theorem failArgument_aSys (r : Reason) (s : State) : (failArgument r s).aSys = s.aSys := rfl
@[simp] theorem failArgument_aUnit (r : Reason) (s : State) : (failArgument r s).aUnit = s.aUnit := rfl
@[simp] theorem failArgument_frame (r : Reason) (s : State) : (failArgument r s).frame = s.frame := rfl
@[simp] theorem failArgument_payload (r : Reason) (s : State) : (failArgument r s).payload = s.payload := rfl
@[simp] theorem failArgument_sizeReq (r : Reason) (s : State) : (failArgument r s).sizeReq = s.sizeReq := rfl
@[simp] theorem failArgument_pout (r : Reason) (s : State) : (failArgument r s).pout = [] := rfl
@[simp] theorem failArgument_repeatCount (r : Reason) (s : State) : (failArgument r s).repeatCount = 0#5 := rfl
@[simp] theorem failArgument_msgSys (r : Reason) (s : State) : (failArgument r s).msgSys = [] := rfl
@[simp] theorem failArgument_msgUnit (r : Reason) (s : State) : (failArgument r s).msgUnit = [] := rfl
@[simp] theorem failArgument_msgState (r : Reason) (s : State) : (failArgument r s).msgState = none := rfl
@[simp] theorem failArgument_msgValid (r : Reason) (s : State) : (failArgument r s).msgValid = false := rfl
@[simp] theorem failArgument_status (r : Reason) (s : State) : (failArgument r s).status = Status.errArg := rfl
@[simp] theorem failArgument_reason (r : Reason) (s : State) : (failArgument r s).reason = r := rfl
@[simp] theorem failArgument_busy (r : Reason) (s : State) : (failArgument r s).busy = false := rfl
@[simp] theorem failArgument_done (r : Reason) (s : State) : (failArgument r s).done = true := rfl
@[simp] theorem failArgument_fatal (r : Reason) (s : State) : (failArgument r s).fatal = s.fatal := by simp [failArgument, failWith, endOperation, clearOutputs]
@[simp] theorem failArgument_opRun (r : Reason) (s : State) : (failArgument r s).opRun = s.opRun := rfl
@[simp] theorem failArgument_hold (r : Reason) (s : State) : (failArgument r s).hold = s.hold := rfl
@[simp] theorem failArgument_host (r : Reason) (s : State) : (failArgument r s).host = s.host := rfl
@[simp] theorem failArgument_present (r : Reason) (s : State) : (failArgument r s).present = s.present := rfl
@[simp] theorem failArgument_freeIdx (r : Reason) (s : State) : (failArgument r s).freeIdx = s.freeIdx := rfl

end failArgument

section failEmpty

@[simp] theorem failEmpty_cfg (s : State) : (failEmpty s).cfg = s.cfg := rfl
@[simp] theorem failEmpty_pin (s : State) : (failEmpty s).pin = s.pin := rfl
@[simp] theorem failEmpty_pinOvf (s : State) : (failEmpty s).pinOvf = s.pinOvf := rfl
@[simp] theorem failEmpty_reqSys (s : State) : (failEmpty s).reqSys = s.reqSys := rfl
@[simp] theorem failEmpty_reqUnit (s : State) : (failEmpty s).reqUnit = s.reqUnit := rfl
@[simp] theorem failEmpty_reqCmd (s : State) : (failEmpty s).reqCmd = s.reqCmd := rfl
@[simp] theorem failEmpty_op (s : State) : (failEmpty s).op = s.op := rfl
@[simp] theorem failEmpty_start (s : State) : (failEmpty s).start = s.start := rfl
@[simp] theorem failEmpty_bits (s : State) : (failEmpty s).bits = [] := rfl
@[simp] theorem failEmpty_pulseIdx (s : State) : (failEmpty s).pulseIdx = s.pulseIdx := rfl
@[simp] theorem failEmpty_cur (s : State) : (failEmpty s).cur = 0 := rfl
@[simp] theorem failEmpty_aSys (s : State) : (failEmpty s).aSys = s.aSys := rfl
@[simp] theorem failEmpty_aUnit (s : State) : (failEmpty s).aUnit = s.aUnit := rfl
@[simp] theorem failEmpty_frame (s : State) : (failEmpty s).frame = s.frame := rfl
@[simp] theorem failEmpty_payload (s : State) : (failEmpty s).payload = s.payload := rfl
@[simp] theorem failEmpty_sizeReq (s : State) : (failEmpty s).sizeReq = s.sizeReq := rfl
@[simp] theorem failEmpty_pout (s : State) : (failEmpty s).pout = [] := rfl
@[simp] theorem failEmpty_repeatCount (s : State) : (failEmpty s).repeatCount = 0#5 := rfl
@[simp] theorem failEmpty_msgSys (s : State) : (failEmpty s).msgSys = [] := rfl
@[simp] theorem failEmpty_msgUnit (s : State) : (failEmpty s).msgUnit = [] := rfl
@[simp] theorem failEmpty_msgState (s : State) : (failEmpty s).msgState = none := rfl
@[simp] theorem failEmpty_msgValid (s : State) : (failEmpty s).msgValid = false := rfl
@[simp] theorem failEmpty_status (s : State) : (failEmpty s).status = Status.noMatch := rfl
@[simp] theorem failEmpty_reason (s : State) : (failEmpty s).reason = Reason.none := rfl
@[simp] theorem failEmpty_busy (s : State) : (failEmpty s).busy = false := rfl
@[simp] theorem failEmpty_done (s : State) : (failEmpty s).done = true := rfl
@[simp] theorem failEmpty_fatal (s : State) : (failEmpty s).fatal = s.fatal := by simp [failEmpty, failWith, endOperation, clearOutputs]
@[simp] theorem failEmpty_opRun (s : State) : (failEmpty s).opRun = s.opRun := rfl
@[simp] theorem failEmpty_hold (s : State) : (failEmpty s).hold = s.hold := rfl
@[simp] theorem failEmpty_host (s : State) : (failEmpty s).host = s.host := rfl
@[simp] theorem failEmpty_present (s : State) : (failEmpty s).present = s.present := rfl
@[simp] theorem failEmpty_freeIdx (s : State) : (failEmpty s).freeIdx = s.freeIdx := rfl

end failEmpty

section failSizing

@[simp] theorem failSizing_cfg (n : Nat) (s : State) : (failSizing n s).cfg = s.cfg := rfl
@[simp] theorem failSizing_pin (n : Nat) (s : State) : (failSizing n s).pin = s.pin := rfl
@[simp] theorem failSizing_pinOvf (n : Nat) (s : State) : (failSizing n s).pinOvf = s.pinOvf := rfl
@[simp] theorem failSizing_reqSys (n : Nat) (s : State) : (failSizing n s).reqSys = s.reqSys := rfl
@[simp] theorem failSizing_reqUnit (n : Nat) (s : State) : (failSizing n s).reqUnit = s.reqUnit := rfl
@[simp] theorem failSizing_reqCmd (n : Nat) (s : State) : (failSizing n s).reqCmd = s.reqCmd := rfl
@[simp] theorem failSizing_op (n : Nat) (s : State) : (failSizing n s).op = s.op := rfl
@[simp] theorem failSizing_start (n : Nat) (s : State) : (failSizing n s).start = s.start := rfl
@[simp] theorem failSizing_bits (n : Nat) (s : State) : (failSizing n s).bits = s.bits := rfl
@[simp] theorem failSizing_pulseIdx (n : Nat) (s : State) : (failSizing n s).pulseIdx = s.pulseIdx := rfl
@[simp] theorem failSizing_cur (n : Nat) (s : State) : (failSizing n s).cur = s.cur := rfl
@[simp] theorem failSizing_aSys (n : Nat) (s : State) : (failSizing n s).aSys = s.aSys := rfl
@[simp] theorem failSizing_aUnit (n : Nat) (s : State) : (failSizing n s).aUnit = s.aUnit := rfl
@[simp] theorem failSizing_frame (n : Nat) (s : State) : (failSizing n s).frame = s.frame := rfl
@[simp] theorem failSizing_payload (n : Nat) (s : State) : (failSizing n s).payload = s.payload := rfl
@[simp] theorem failSizing_sizeReq (n : Nat) (s : State) : (failSizing n s).sizeReq = n := rfl
@[simp] theorem failSizing_pout (n : Nat) (s : State) : (failSizing n s).pout = [] := rfl
@[simp] theorem failSizing_repeatCount (n : Nat) (s : State) : (failSizing n s).repeatCount = 0#5 := rfl
@[simp] theorem failSizing_msgSys (n : Nat) (s : State) : (failSizing n s).msgSys = [] := rfl
@[simp] theorem failSizing_msgUnit (n : Nat) (s : State) : (failSizing n s).msgUnit = [] := rfl
@[simp] theorem failSizing_msgState (n : Nat) (s : State) : (failSizing n s).msgState = none := rfl
@[simp] theorem failSizing_msgValid (n : Nat) (s : State) : (failSizing n s).msgValid = false := rfl
@[simp] theorem failSizing_status (n : Nat) (s : State) : (failSizing n s).status = Status.fatalSizing := rfl
@[simp] theorem failSizing_reason (n : Nat) (s : State) : (failSizing n s).reason = Reason.none := rfl
@[simp] theorem failSizing_busy (n : Nat) (s : State) : (failSizing n s).busy = false := rfl
@[simp] theorem failSizing_done (n : Nat) (s : State) : (failSizing n s).done = true := rfl
@[simp] theorem failSizing_fatal (n : Nat) (s : State) : (failSizing n s).fatal = true := by simp [failSizing, failWith, endOperation]
@[simp] theorem failSizing_opRun (n : Nat) (s : State) : (failSizing n s).opRun = s.opRun := rfl
@[simp] theorem failSizing_hold (n : Nat) (s : State) : (failSizing n s).hold = s.hold := rfl
@[simp] theorem failSizing_host (n : Nat) (s : State) : (failSizing n s).host = s.host := rfl
@[simp] theorem failSizing_present (n : Nat) (s : State) : (failSizing n s).present = s.present := rfl
@[simp] theorem failSizing_freeIdx (n : Nat) (s : State) : (failSizing n s).freeIdx = s.freeIdx := rfl

end failSizing

section succeed

@[simp] theorem succeed_cfg (s : State) : (succeed s).cfg = s.cfg := rfl
@[simp] theorem succeed_pin (s : State) : (succeed s).pin = s.pin := rfl
@[simp] theorem succeed_pinOvf (s : State) : (succeed s).pinOvf = s.pinOvf := rfl
@[simp] theorem succeed_reqSys (s : State) : (succeed s).reqSys = s.reqSys := rfl
@[simp] theorem succeed_reqUnit (s : State) : (succeed s).reqUnit = s.reqUnit := rfl
@[simp] theorem succeed_reqCmd (s : State) : (succeed s).reqCmd = s.reqCmd := rfl
@[simp] theorem succeed_op (s : State) : (succeed s).op = s.op := rfl
@[simp] theorem succeed_start (s : State) : (succeed s).start = s.start := rfl
@[simp] theorem succeed_bits (s : State) : (succeed s).bits = s.bits := rfl
@[simp] theorem succeed_pulseIdx (s : State) : (succeed s).pulseIdx = s.pulseIdx := rfl
@[simp] theorem succeed_cur (s : State) : (succeed s).cur = s.cur := rfl
@[simp] theorem succeed_aSys (s : State) : (succeed s).aSys = s.aSys := rfl
@[simp] theorem succeed_aUnit (s : State) : (succeed s).aUnit = s.aUnit := rfl
@[simp] theorem succeed_frame (s : State) : (succeed s).frame = s.frame := rfl
@[simp] theorem succeed_payload (s : State) : (succeed s).payload = s.payload := rfl
@[simp] theorem succeed_sizeReq (s : State) : (succeed s).sizeReq = s.sizeReq := rfl
@[simp] theorem succeed_pout (s : State) : (succeed s).pout = s.pout := rfl
@[simp] theorem succeed_repeatCount (s : State) : (succeed s).repeatCount = s.repeatCount := rfl
@[simp] theorem succeed_msgSys (s : State) : (succeed s).msgSys = s.msgSys := rfl
@[simp] theorem succeed_msgUnit (s : State) : (succeed s).msgUnit = s.msgUnit := rfl
@[simp] theorem succeed_msgState (s : State) : (succeed s).msgState = s.msgState := rfl
@[simp] theorem succeed_msgValid (s : State) : (succeed s).msgValid = s.msgValid := rfl
@[simp] theorem succeed_status (s : State) : (succeed s).status = Status.ok := rfl
@[simp] theorem succeed_reason (s : State) : (succeed s).reason = Reason.none := rfl
@[simp] theorem succeed_busy (s : State) : (succeed s).busy = false := rfl
@[simp] theorem succeed_done (s : State) : (succeed s).done = true := rfl
@[simp] theorem succeed_fatal (s : State) : (succeed s).fatal = s.fatal := rfl
@[simp] theorem succeed_opRun (s : State) : (succeed s).opRun = s.opRun := rfl
@[simp] theorem succeed_hold (s : State) : (succeed s).hold = s.hold := rfl
@[simp] theorem succeed_host (s : State) : (succeed s).host = s.host := rfl
@[simp] theorem succeed_present (s : State) : (succeed s).present = s.present := rfl
@[simp] theorem succeed_freeIdx (s : State) : (succeed s).freeIdx = s.freeIdx := rfl

end succeed

section writeMessage

@[simp] theorem writeMessage_cfg (m : Message) (s : State) : (writeMessage m s).cfg = s.cfg := rfl
@[simp] theorem writeMessage_pin (m : Message) (s : State) : (writeMessage m s).pin = s.pin := rfl
@[simp] theorem writeMessage_pinOvf (m : Message) (s : State) : (writeMessage m s).pinOvf = s.pinOvf := rfl
@[simp] theorem writeMessage_reqSys (m : Message) (s : State) : (writeMessage m s).reqSys = s.reqSys := rfl
@[simp] theorem writeMessage_reqUnit (m : Message) (s : State) : (writeMessage m s).reqUnit = s.reqUnit := rfl
@[simp] theorem writeMessage_reqCmd (m : Message) (s : State) : (writeMessage m s).reqCmd = s.reqCmd := rfl
@[simp] theorem writeMessage_op (m : Message) (s : State) : (writeMessage m s).op = s.op := rfl
@[simp] theorem writeMessage_start (m : Message) (s : State) : (writeMessage m s).start = s.start := rfl
@[simp] theorem writeMessage_bits (m : Message) (s : State) : (writeMessage m s).bits = s.bits := rfl
@[simp] theorem writeMessage_pulseIdx (m : Message) (s : State) : (writeMessage m s).pulseIdx = s.pulseIdx := rfl
@[simp] theorem writeMessage_cur (m : Message) (s : State) : (writeMessage m s).cur = s.cur := rfl
@[simp] theorem writeMessage_aSys (m : Message) (s : State) : (writeMessage m s).aSys = s.aSys := rfl
@[simp] theorem writeMessage_aUnit (m : Message) (s : State) : (writeMessage m s).aUnit = s.aUnit := rfl
@[simp] theorem writeMessage_frame (m : Message) (s : State) : (writeMessage m s).frame = s.frame := rfl
@[simp] theorem writeMessage_payload (m : Message) (s : State) : (writeMessage m s).payload = s.payload := rfl
@[simp] theorem writeMessage_sizeReq (m : Message) (s : State) : (writeMessage m s).sizeReq = s.sizeReq := rfl
@[simp] theorem writeMessage_pout (m : Message) (s : State) : (writeMessage m s).pout = s.pout := rfl
@[simp] theorem writeMessage_repeatCount (m : Message) (s : State) : (writeMessage m s).repeatCount = s.repeatCount := rfl
@[simp] theorem writeMessage_msgSys (m : Message) (s : State) : (writeMessage m s).msgSys = m.sys := rfl
@[simp] theorem writeMessage_msgUnit (m : Message) (s : State) : (writeMessage m s).msgUnit = m.unit := rfl
@[simp] theorem writeMessage_msgState (m : Message) (s : State) : (writeMessage m s).msgState = m.state := rfl
@[simp] theorem writeMessage_msgValid (m : Message) (s : State) : (writeMessage m s).msgValid = true := rfl
@[simp] theorem writeMessage_status (m : Message) (s : State) : (writeMessage m s).status = s.status := rfl
@[simp] theorem writeMessage_reason (m : Message) (s : State) : (writeMessage m s).reason = s.reason := rfl
@[simp] theorem writeMessage_busy (m : Message) (s : State) : (writeMessage m s).busy = s.busy := rfl
@[simp] theorem writeMessage_done (m : Message) (s : State) : (writeMessage m s).done = s.done := rfl
@[simp] theorem writeMessage_fatal (m : Message) (s : State) : (writeMessage m s).fatal = s.fatal := rfl
@[simp] theorem writeMessage_opRun (m : Message) (s : State) : (writeMessage m s).opRun = s.opRun := rfl
@[simp] theorem writeMessage_hold (m : Message) (s : State) : (writeMessage m s).hold = s.hold := rfl
@[simp] theorem writeMessage_host (m : Message) (s : State) : (writeMessage m s).host = s.host := rfl
@[simp] theorem writeMessage_present (m : Message) (s : State) : (writeMessage m s).present = s.present := rfl
@[simp] theorem writeMessage_freeIdx (m : Message) (s : State) : (writeMessage m s).freeIdx = s.freeIdx := rfl

end writeMessage

section deliverReport

@[simp] theorem deliverReport_cfg (p : Payload) (s : State) : (deliverReport p s).cfg = s.cfg := rfl
@[simp] theorem deliverReport_pin (p : Payload) (s : State) : (deliverReport p s).pin = s.pin := rfl
@[simp] theorem deliverReport_pinOvf (p : Payload) (s : State) : (deliverReport p s).pinOvf = s.pinOvf := rfl
@[simp] theorem deliverReport_reqSys (p : Payload) (s : State) : (deliverReport p s).reqSys = s.reqSys := rfl
@[simp] theorem deliverReport_reqUnit (p : Payload) (s : State) : (deliverReport p s).reqUnit = s.reqUnit := rfl
@[simp] theorem deliverReport_reqCmd (p : Payload) (s : State) : (deliverReport p s).reqCmd = s.reqCmd := rfl
@[simp] theorem deliverReport_op (p : Payload) (s : State) : (deliverReport p s).op = s.op := rfl
@[simp] theorem deliverReport_start (p : Payload) (s : State) : (deliverReport p s).start = s.start := rfl
@[simp] theorem deliverReport_bits (p : Payload) (s : State) : (deliverReport p s).bits = s.bits := rfl
@[simp] theorem deliverReport_pulseIdx (p : Payload) (s : State) : (deliverReport p s).pulseIdx = s.pulseIdx := rfl
@[simp] theorem deliverReport_cur (p : Payload) (s : State) : (deliverReport p s).cur = s.cur := rfl
@[simp] theorem deliverReport_aSys (p : Payload) (s : State) : (deliverReport p s).aSys = s.aSys := rfl
@[simp] theorem deliverReport_aUnit (p : Payload) (s : State) : (deliverReport p s).aUnit = s.aUnit := rfl
@[simp] theorem deliverReport_frame (p : Payload) (s : State) : (deliverReport p s).frame = s.frame := rfl
@[simp] theorem deliverReport_payload (p : Payload) (s : State) : (deliverReport p s).payload = s.payload := rfl
@[simp] theorem deliverReport_sizeReq (p : Payload) (s : State) : (deliverReport p s).sizeReq = s.sizeReq := rfl
@[simp] theorem deliverReport_pout (p : Payload) (s : State) : (deliverReport p s).pout = s.pout := rfl
@[simp] theorem deliverReport_repeatCount (p : Payload) (s : State) : (deliverReport p s).repeatCount = s.repeatCount := rfl
@[simp] theorem deliverReport_msgSys (p : Payload) (s : State) : (deliverReport p s).msgSys = formatAddress p.sys := rfl
@[simp] theorem deliverReport_msgUnit (p : Payload) (s : State) : (deliverReport p s).msgUnit = formatAddress p.unit := rfl
@[simp] theorem deliverReport_msgState (p : Payload) (s : State) : (deliverReport p s).msgState = some p.state := rfl
@[simp] theorem deliverReport_msgValid (p : Payload) (s : State) : (deliverReport p s).msgValid = true := rfl
@[simp] theorem deliverReport_status (p : Payload) (s : State) : (deliverReport p s).status = Status.ok := rfl
@[simp] theorem deliverReport_reason (p : Payload) (s : State) : (deliverReport p s).reason = Reason.none := rfl
@[simp] theorem deliverReport_busy (p : Payload) (s : State) : (deliverReport p s).busy = false := rfl
@[simp] theorem deliverReport_done (p : Payload) (s : State) : (deliverReport p s).done = true := rfl
@[simp] theorem deliverReport_fatal (p : Payload) (s : State) : (deliverReport p s).fatal = s.fatal := rfl
@[simp] theorem deliverReport_opRun (p : Payload) (s : State) : (deliverReport p s).opRun = s.opRun := rfl
@[simp] theorem deliverReport_hold (p : Payload) (s : State) : (deliverReport p s).hold = s.hold := rfl
@[simp] theorem deliverReport_host (p : Payload) (s : State) : (deliverReport p s).host = s.host := rfl
@[simp] theorem deliverReport_present (p : Payload) (s : State) : (deliverReport p s).present = s.present := rfl
@[simp] theorem deliverReport_freeIdx (p : Payload) (s : State) : (deliverReport p s).freeIdx = s.freeIdx := rfl

end deliverReport

section deliverRequest

@[simp] theorem deliverRequest_cfg (r : Request) (sys unit : Nat) (s : State) : (deliverRequest r sys unit s).cfg = s.cfg := rfl
@[simp] theorem deliverRequest_pin (r : Request) (sys unit : Nat) (s : State) : (deliverRequest r sys unit s).pin = s.pin := rfl
@[simp] theorem deliverRequest_pinOvf (r : Request) (sys unit : Nat) (s : State) : (deliverRequest r sys unit s).pinOvf = s.pinOvf := rfl
@[simp] theorem deliverRequest_reqSys (r : Request) (sys unit : Nat) (s : State) : (deliverRequest r sys unit s).reqSys = s.reqSys := rfl
@[simp] theorem deliverRequest_reqUnit (r : Request) (sys unit : Nat) (s : State) : (deliverRequest r sys unit s).reqUnit = s.reqUnit := rfl
@[simp] theorem deliverRequest_reqCmd (r : Request) (sys unit : Nat) (s : State) : (deliverRequest r sys unit s).reqCmd = s.reqCmd := rfl
@[simp] theorem deliverRequest_op (r : Request) (sys unit : Nat) (s : State) : (deliverRequest r sys unit s).op = s.op := rfl
@[simp] theorem deliverRequest_start (r : Request) (sys unit : Nat) (s : State) : (deliverRequest r sys unit s).start = s.start := rfl
@[simp] theorem deliverRequest_bits (r : Request) (sys unit : Nat) (s : State) : (deliverRequest r sys unit s).bits = s.bits := rfl
@[simp] theorem deliverRequest_pulseIdx (r : Request) (sys unit : Nat) (s : State) : (deliverRequest r sys unit s).pulseIdx = s.pulseIdx := rfl
@[simp] theorem deliverRequest_cur (r : Request) (sys unit : Nat) (s : State) : (deliverRequest r sys unit s).cur = s.cur := rfl
@[simp] theorem deliverRequest_aSys (r : Request) (sys unit : Nat) (s : State) : (deliverRequest r sys unit s).aSys = s.aSys := rfl
@[simp] theorem deliverRequest_aUnit (r : Request) (sys unit : Nat) (s : State) : (deliverRequest r sys unit s).aUnit = s.aUnit := rfl
@[simp] theorem deliverRequest_frame (r : Request) (sys unit : Nat) (s : State) : (deliverRequest r sys unit s).frame = s.frame := rfl
@[simp] theorem deliverRequest_payload (r : Request) (sys unit : Nat) (s : State) : (deliverRequest r sys unit s).payload = s.payload := rfl
@[simp] theorem deliverRequest_sizeReq (r : Request) (sys unit : Nat) (s : State) : (deliverRequest r sys unit s).sizeReq = s.sizeReq := rfl
@[simp] theorem deliverRequest_pout (r : Request) (sys unit : Nat) (s : State) : (deliverRequest r sys unit s).pout = s.pout := rfl
@[simp] theorem deliverRequest_repeatCount (r : Request) (sys unit : Nat) (s : State) : (deliverRequest r sys unit s).repeatCount = 30#5 := rfl
@[simp] theorem deliverRequest_msgSys (r : Request) (sys unit : Nat) (s : State) : (deliverRequest r sys unit s).msgSys = formatAddress sys := rfl
@[simp] theorem deliverRequest_msgUnit (r : Request) (sys unit : Nat) (s : State) : (deliverRequest r sys unit s).msgUnit = formatAddress unit := rfl
@[simp] theorem deliverRequest_msgState (r : Request) (sys unit : Nat) (s : State) : (deliverRequest r sys unit s).msgState = r.echo := rfl
@[simp] theorem deliverRequest_msgValid (r : Request) (sys unit : Nat) (s : State) : (deliverRequest r sys unit s).msgValid = true := rfl
@[simp] theorem deliverRequest_status (r : Request) (sys unit : Nat) (s : State) : (deliverRequest r sys unit s).status = Status.ok := rfl
@[simp] theorem deliverRequest_reason (r : Request) (sys unit : Nat) (s : State) : (deliverRequest r sys unit s).reason = Reason.none := rfl
@[simp] theorem deliverRequest_busy (r : Request) (sys unit : Nat) (s : State) : (deliverRequest r sys unit s).busy = false := rfl
@[simp] theorem deliverRequest_done (r : Request) (sys unit : Nat) (s : State) : (deliverRequest r sys unit s).done = true := rfl
@[simp] theorem deliverRequest_fatal (r : Request) (sys unit : Nat) (s : State) : (deliverRequest r sys unit s).fatal = s.fatal := rfl
@[simp] theorem deliverRequest_opRun (r : Request) (sys unit : Nat) (s : State) : (deliverRequest r sys unit s).opRun = s.opRun := rfl
@[simp] theorem deliverRequest_hold (r : Request) (sys unit : Nat) (s : State) : (deliverRequest r sys unit s).hold = s.hold := rfl
@[simp] theorem deliverRequest_host (r : Request) (sys unit : Nat) (s : State) : (deliverRequest r sys unit s).host = s.host := rfl
@[simp] theorem deliverRequest_present (r : Request) (sys unit : Nat) (s : State) : (deliverRequest r sys unit s).present = s.present := rfl
@[simp] theorem deliverRequest_freeIdx (r : Request) (sys unit : Nat) (s : State) : (deliverRequest r sys unit s).freeIdx = s.freeIdx := rfl

end deliverRequest

section loadFrame

@[simp] theorem loadFrame_cfg (r : Request) (sys unit : Nat) (b : Bits) (s : State) : (loadFrame r sys unit b s).cfg = s.cfg := rfl
@[simp] theorem loadFrame_pin (r : Request) (sys unit : Nat) (b : Bits) (s : State) : (loadFrame r sys unit b s).pin = s.pin := rfl
@[simp] theorem loadFrame_pinOvf (r : Request) (sys unit : Nat) (b : Bits) (s : State) : (loadFrame r sys unit b s).pinOvf = s.pinOvf := rfl
@[simp] theorem loadFrame_reqSys (r : Request) (sys unit : Nat) (b : Bits) (s : State) : (loadFrame r sys unit b s).reqSys = s.reqSys := rfl
@[simp] theorem loadFrame_reqUnit (r : Request) (sys unit : Nat) (b : Bits) (s : State) : (loadFrame r sys unit b s).reqUnit = s.reqUnit := rfl
@[simp] theorem loadFrame_reqCmd (r : Request) (sys unit : Nat) (b : Bits) (s : State) : (loadFrame r sys unit b s).reqCmd = s.reqCmd := rfl
@[simp] theorem loadFrame_op (r : Request) (sys unit : Nat) (b : Bits) (s : State) : (loadFrame r sys unit b s).op = s.op := rfl
@[simp] theorem loadFrame_start (r : Request) (sys unit : Nat) (b : Bits) (s : State) : (loadFrame r sys unit b s).start = s.start := rfl
@[simp] theorem loadFrame_bits (r : Request) (sys unit : Nat) (b : Bits) (s : State) : (loadFrame r sys unit b s).bits = b := rfl
@[simp] theorem loadFrame_pulseIdx (r : Request) (sys unit : Nat) (b : Bits) (s : State) : (loadFrame r sys unit b s).pulseIdx = s.pulseIdx := rfl
@[simp] theorem loadFrame_cur (r : Request) (sys unit : Nat) (b : Bits) (s : State) : (loadFrame r sys unit b s).cur = s.cur := rfl
@[simp] theorem loadFrame_aSys (r : Request) (sys unit : Nat) (b : Bits) (s : State) : (loadFrame r sys unit b s).aSys = s.aSys := rfl
@[simp] theorem loadFrame_aUnit (r : Request) (sys unit : Nat) (b : Bits) (s : State) : (loadFrame r sys unit b s).aUnit = s.aUnit := rfl
@[simp] theorem loadFrame_frame (r : Request) (sys unit : Nat) (b : Bits) (s : State) : (loadFrame r sys unit b s).frame = some ⟨s.cfg.protocolId, sys, unit, r.code s.cfg⟩ := rfl
@[simp] theorem loadFrame_payload (r : Request) (sys unit : Nat) (b : Bits) (s : State) : (loadFrame r sys unit b s).payload = s.payload := rfl
@[simp] theorem loadFrame_sizeReq (r : Request) (sys unit : Nat) (b : Bits) (s : State) : (loadFrame r sys unit b s).sizeReq = buildSize s.cfg (r.code s.cfg) sys unit := rfl
@[simp] theorem loadFrame_pout (r : Request) (sys unit : Nat) (b : Bits) (s : State) : (loadFrame r sys unit b s).pout = s.pout := rfl
@[simp] theorem loadFrame_repeatCount (r : Request) (sys unit : Nat) (b : Bits) (s : State) : (loadFrame r sys unit b s).repeatCount = s.repeatCount := rfl
@[simp] theorem loadFrame_msgSys (r : Request) (sys unit : Nat) (b : Bits) (s : State) : (loadFrame r sys unit b s).msgSys = s.msgSys := rfl
@[simp] theorem loadFrame_msgUnit (r : Request) (sys unit : Nat) (b : Bits) (s : State) : (loadFrame r sys unit b s).msgUnit = s.msgUnit := rfl
@[simp] theorem loadFrame_msgState (r : Request) (sys unit : Nat) (b : Bits) (s : State) : (loadFrame r sys unit b s).msgState = s.msgState := rfl
@[simp] theorem loadFrame_msgValid (r : Request) (sys unit : Nat) (b : Bits) (s : State) : (loadFrame r sys unit b s).msgValid = s.msgValid := rfl
@[simp] theorem loadFrame_status (r : Request) (sys unit : Nat) (b : Bits) (s : State) : (loadFrame r sys unit b s).status = s.status := rfl
@[simp] theorem loadFrame_reason (r : Request) (sys unit : Nat) (b : Bits) (s : State) : (loadFrame r sys unit b s).reason = s.reason := rfl
@[simp] theorem loadFrame_busy (r : Request) (sys unit : Nat) (b : Bits) (s : State) : (loadFrame r sys unit b s).busy = s.busy := rfl
@[simp] theorem loadFrame_done (r : Request) (sys unit : Nat) (b : Bits) (s : State) : (loadFrame r sys unit b s).done = s.done := rfl
@[simp] theorem loadFrame_fatal (r : Request) (sys unit : Nat) (b : Bits) (s : State) : (loadFrame r sys unit b s).fatal = s.fatal := rfl
@[simp] theorem loadFrame_opRun (r : Request) (sys unit : Nat) (b : Bits) (s : State) : (loadFrame r sys unit b s).opRun = s.opRun := rfl
@[simp] theorem loadFrame_hold (r : Request) (sys unit : Nat) (b : Bits) (s : State) : (loadFrame r sys unit b s).hold = s.hold := rfl
@[simp] theorem loadFrame_host (r : Request) (sys unit : Nat) (b : Bits) (s : State) : (loadFrame r sys unit b s).host = s.host := rfl
@[simp] theorem loadFrame_present (r : Request) (sys unit : Nat) (b : Bits) (s : State) : (loadFrame r sys unit b s).present = s.present := rfl
@[simp] theorem loadFrame_freeIdx (r : Request) (sys unit : Nat) (b : Bits) (s : State) : (loadFrame r sys unit b s).freeIdx = s.freeIdx := rfl

end loadFrame

section emitTrain

@[simp] theorem emitTrain_cfg (s : State) : (emitTrain s).cfg = s.cfg := rfl
@[simp] theorem emitTrain_pin (s : State) : (emitTrain s).pin = s.pin := rfl
@[simp] theorem emitTrain_pinOvf (s : State) : (emitTrain s).pinOvf = s.pinOvf := rfl
@[simp] theorem emitTrain_reqSys (s : State) : (emitTrain s).reqSys = s.reqSys := rfl
@[simp] theorem emitTrain_reqUnit (s : State) : (emitTrain s).reqUnit = s.reqUnit := rfl
@[simp] theorem emitTrain_reqCmd (s : State) : (emitTrain s).reqCmd = s.reqCmd := rfl
@[simp] theorem emitTrain_op (s : State) : (emitTrain s).op = s.op := rfl
@[simp] theorem emitTrain_start (s : State) : (emitTrain s).start = s.start := rfl
@[simp] theorem emitTrain_bits (s : State) : (emitTrain s).bits = s.bits := rfl
@[simp] theorem emitTrain_pulseIdx (s : State) : (emitTrain s).pulseIdx = s.bits.length := rfl
@[simp] theorem emitTrain_cur (s : State) : (emitTrain s).cur = s.cur := rfl
@[simp] theorem emitTrain_aSys (s : State) : (emitTrain s).aSys = s.aSys := rfl
@[simp] theorem emitTrain_aUnit (s : State) : (emitTrain s).aUnit = s.aUnit := rfl
@[simp] theorem emitTrain_frame (s : State) : (emitTrain s).frame = s.frame := rfl
@[simp] theorem emitTrain_payload (s : State) : (emitTrain s).payload = s.payload := rfl
@[simp] theorem emitTrain_sizeReq (s : State) : (emitTrain s).sizeReq = s.sizeReq := rfl
@[simp] theorem emitTrain_pout (s : State) : (emitTrain s).pout = pulseEncode s.cfg s.bits := rfl
@[simp] theorem emitTrain_repeatCount (s : State) : (emitTrain s).repeatCount = s.repeatCount := rfl
@[simp] theorem emitTrain_msgSys (s : State) : (emitTrain s).msgSys = s.msgSys := rfl
@[simp] theorem emitTrain_msgUnit (s : State) : (emitTrain s).msgUnit = s.msgUnit := rfl
@[simp] theorem emitTrain_msgState (s : State) : (emitTrain s).msgState = s.msgState := rfl
@[simp] theorem emitTrain_msgValid (s : State) : (emitTrain s).msgValid = s.msgValid := rfl
@[simp] theorem emitTrain_status (s : State) : (emitTrain s).status = s.status := rfl
@[simp] theorem emitTrain_reason (s : State) : (emitTrain s).reason = s.reason := rfl
@[simp] theorem emitTrain_busy (s : State) : (emitTrain s).busy = s.busy := rfl
@[simp] theorem emitTrain_done (s : State) : (emitTrain s).done = s.done := rfl
@[simp] theorem emitTrain_fatal (s : State) : (emitTrain s).fatal = s.fatal := rfl
@[simp] theorem emitTrain_opRun (s : State) : (emitTrain s).opRun = s.opRun := rfl
@[simp] theorem emitTrain_hold (s : State) : (emitTrain s).hold = s.hold := rfl
@[simp] theorem emitTrain_host (s : State) : (emitTrain s).host = s.host := rfl
@[simp] theorem emitTrain_present (s : State) : (emitTrain s).present = s.present := rfl
@[simp] theorem emitTrain_freeIdx (s : State) : (emitTrain s).freeIdx = s.freeIdx := rfl

end emitTrain

end Sys2Proof.Machine
end

