-- ==== Sys2Proof/Laws/Ops.lean ====
section
/-! SUPPORT. What each shared operation can do, said once: callers cite these instead of unfolding the operation. -/

namespace Sys2Proof.Machine

/-! ## START and the running operation -/

theorem acceptsStart_iff {s : State} : s.acceptsStart = true ↔ s.busy = false ∧ s.fatal = false := by
  simp [State.acceptsStart]

/-- An accepted START runs the operation on the accepted state (R107 to R110). -/
theorem startOperation_accepted {op : BitVec 2} {run : State → State} {s : State} (h : s.acceptsStart = true) :
    startOperation op run s = .next (run (acceptStart op s)) := by
  simp [startOperation, h]

/-- A START that is not accepted changes nothing (R124, R134). -/
theorem startOperation_ignored {op : BitVec 2} {run : State → State} {s : State} (h : s.acceptsStart = false) :
    startOperation op run s = .next s := by
  simp [startOperation, h]

theorem whileBusy_busy {s : State} (h : s.busy = true) (o : Host.Outcome State Fault Refusal) : whileBusy s o = o := by
  simp [whileBusy, h]

theorem whileBusy_idle {s : State} (h : s.busy = false) (o : Host.Outcome State Fault Refusal) : whileBusy s o = .next s := by
  simp [whileBusy, h]

/-! ## The decode path -/

/-- Step 4 of a decode ends in the report or in ST_NOMATCH (R85, R98). -/
theorem readReport_cases (s : State) :
    (∃ p k, decodeStateInform s.cfg s.bits s.cur = (some p, k) ∧
      readReport s = deliverReport p { s with payload := some p, cur := k }) ∨
    (∃ k, decodeStateInform s.cfg s.bits s.cur = (none, k) ∧
      readReport s = failWith .noMatch { s with payload := none, cur := k }) := by
  unfold readReport
  rcases h : decodeStateInform s.cfg s.bits s.cur with ⟨_ | p, k⟩
  · exact .inr ⟨k, rfl, rfl⟩
  · exact .inl ⟨p, k, rfl, rfl⟩

/-- Steps 2 and 3 of a decode end in ST_NOMATCH, at the header or at the acceptance test, or go on to the payload (R98, R100). -/
theorem readFrame_cases (s : State) :
    (∃ k, decodeFrame s.cfg s.bits = (none, k) ∧ readFrame s = failWith .noMatch { s with frame := none, cur := k }) ∨
    (∃ f k, decodeFrame s.cfg s.bits = (some f, k) ∧ accepted s.cfg f = false ∧
      readFrame s = failWith .noMatch { s with frame := some f, cur := k }) ∨
    (∃ f k, decodeFrame s.cfg s.bits = (some f, k) ∧ accepted s.cfg f = true ∧
      readFrame s = readReport { s with frame := some f, cur := k }) := by
  unfold readFrame
  rcases h : decodeFrame s.cfg s.bits with ⟨_ | f, k⟩
  · exact .inl ⟨k, rfl, rfl⟩
  · cases ha : accepted s.cfg f with
    | false => exact .inr (.inl ⟨f, k, rfl, ha, by simp [ha]⟩)
    | true => exact .inr (.inr ⟨f, k, rfl, ha, by simp [ha]⟩)

/-- Step 1 of a decode ends in ST_NOMATCH with no bits or goes on to the frame (R75, R98). -/
theorem readTrain_cases (s : State) :
    (pulseDecode s.cfg s.pin s.pinOvf = none ∧
      readTrain s = failEmpty { s with pulseIdx := pulseIndexAfterDecode s.cfg s.pin s.pinOvf }) ∨
    (∃ b, pulseDecode s.cfg s.pin s.pinOvf = some b ∧
      readTrain s = readFrame { s with pulseIdx := pulseIndexAfterDecode s.cfg s.pin s.pinOvf, bits := b }) := by
  unfold readTrain
  cases h : pulseDecode s.cfg s.pin s.pinOvf with
  | none => exact .inl ⟨rfl, rfl⟩
  | some b => exact .inr ⟨b, rfl, rfl⟩

/-- Where the frame layer of a decode ends, in terms of its answer `decodeReport` (R98): a report is delivered with its payload, or the operation
ends in ST_NOMATCH; only the frame, the payload and the cursor are touched before the end. -/
theorem readFrame_ends (s : State) :
    (∃ fr p k, decodeReport s.cfg s.bits = some (reportMessage p) ∧
      readFrame s = deliverReport p { s with frame := fr, payload := some p, cur := k }) ∨
    (∃ fr pl k, decodeReport s.cfg s.bits = none ∧
      readFrame s = failWith .noMatch { s with frame := fr, payload := pl, cur := k }) := by
  rcases readFrame_cases s with ⟨k, hd, hr⟩ | ⟨f, k, hd, ha, hr⟩ | ⟨f, k, hd, ha, hr⟩
  · exact .inr ⟨none, s.payload, k, by simp [decodeReport, hd], hr⟩
  · exact .inr ⟨some f, s.payload, k, by simp [decodeReport, hd, ha], hr⟩
  · rcases readReport_cases { s with frame := some f, cur := k } with ⟨p, k', hp, hr'⟩ | ⟨k', hp, hr'⟩
    · exact .inl ⟨some f, p, k', by simp only at hp; simp [decodeReport, hd, ha, hp], by rw [hr, hr']⟩
    · exact .inr ⟨some f, none, k', by simp only at hp; simp [decodeReport, hd, ha, hp], by rw [hr, hr']⟩

/-! ## The encode path -/

/-- The command code of a request is known to the decoder (R57, R93). -/
theorem commandOf_code {c : Config} (h : c.Legal) (r : Request) :
    commandOf c (r.code c) = some (match r with | .on => .on | .off => .off | .query => .stateQuery) := by
  have hn := h.2.2.2.1.1
  simp only [List.nodup_cons, List.mem_cons, List.not_mem_nil, or_false, not_or, List.nodup_nil, not_false_eq_true,
    and_true] at hn
  obtain ⟨⟨h1, h2, h3⟩, ⟨h4, h5⟩, h6⟩ := hn
  cases r
  · simp [commandOf, Request.code]
  · simp [commandOf, Request.code, Ne.symm h1]
  · simp [commandOf, Request.code, Ne.symm h2, Ne.symm h4]

/-- The report's command code is known to the decoder (R57). -/
theorem commandOf_inform {c : Config} (h : c.Legal) : commandOf c c.cmdStateInform = some .stateInform := by
  have hn := h.2.2.2.1.1
  simp only [List.nodup_cons, List.mem_cons, List.not_mem_nil, or_false, not_or, List.nodup_nil, not_false_eq_true,
    and_true] at hn
  obtain ⟨⟨h1, h2, h3⟩, ⟨h4, h5⟩, h6⟩ := hn
  simp [commandOf, Ne.symm h3, Ne.symm h5, Ne.symm h6]

/-- What a builder works with is an Address (R18), whatever the free value is. -/
theorem builtAddress_le (k a : Nat) (s : State) : builtAddress k a s ≤ s.cfg.idMax := by
  unfold builtAddress
  split
  · assumption
  · exact Nat.le_of_lt_succ (Nat.mod_lt _ (Nat.succ_pos _))

/-- An operand that is an Address is built as it is (R87). -/
theorem builtAddress_of_le {k a : Nat} {s : State} (h : a ≤ s.cfg.idMax) : builtAddress k a s = a := if_pos h

/-- A builder runs on every operand: with the operands themselves when both are Addresses, else with Addresses that keep each operand
that is one (R87, R18, log 33). -/
theorem buildGiven_cases (r : Request) (sys unit : Nat) (s : State) :
    (sys ≤ s.cfg.idMax ∧ unit ≤ s.cfg.idMax ∧ buildGiven r sys unit s = buildRequest r sys unit s) ∨
    (¬ (sys ≤ s.cfg.idMax ∧ unit ≤ s.cfg.idMax) ∧ buildGiven r sys unit s =
      buildRequest r (builtAddress s.freeIdx sys s) (builtAddress (s.freeIdx + 1) unit s) { s with freeIdx := s.freeIdx + 2 }) := by
  unfold buildGiven
  by_cases h : sys ≤ s.cfg.idMax ∧ unit ≤ s.cfg.idMax
  · exact .inl ⟨h.1, h.2, if_pos h⟩
  · exact .inr ⟨h, if_neg h⟩

/-- A builder over the registers writes what R87 lists and nothing else. -/
theorem buildRequest_eq (r : Request) (sys unit : Nat) (s : State) :
    buildRequest r sys unit s =
      loadFrame r sys unit (headerBits s.cfg.idBits s.cfg.protocolId sys unit (r.code s.cfg)) s := by
  simp [buildRequest, buildFor_eq]

/-- Steps 3 to 5 of an encode always send (R91, R102). -/
theorem sendRequest_eq (r : Request) (sys unit : Nat) (s : State) :
    sendRequest r sys unit s =
      deliverRequest r sys unit
        (emitTrain (loadFrame r sys unit (headerBits s.cfg.idBits s.cfg.protocolId sys unit (r.code s.cfg)) s)) := by
  simp [sendRequest, buildFor_eq]

/-- Every way OP_ENCODE's body ends (R102, R103): one of the five argument errors in their order, or the request is sent. -/
theorem runEncode_cases (s : State) :
    (s.reqSys = none ∧ runEncode s = failArgument .sysMissing s) ∨
    (s.reqSys ≠ none ∧ parseAddress s.cfg s.reqSys = none ∧ runEncode s = failArgument .sysInvalid s) ∨
    (∃ sys, parseAddress s.cfg s.reqSys = some sys ∧ s.reqUnit = none ∧
      runEncode s = failArgument .unitMissing { s with aSys := some sys }) ∨
    (∃ sys, parseAddress s.cfg s.reqSys = some sys ∧ s.reqUnit ≠ none ∧ parseAddress s.cfg s.reqUnit = none ∧
      runEncode s = failArgument .unitInvalid { s with aSys := some sys }) ∨
    (∃ sys unit, parseAddress s.cfg s.reqSys = some sys ∧ parseAddress s.cfg s.reqUnit = some unit ∧
      requestOf s.reqCmd = none ∧
      runEncode s = failArgument .cmdMissing { s with aSys := some sys, aUnit := some unit }) ∨
    (∃ sys unit r, parseAddress s.cfg s.reqSys = some sys ∧ parseAddress s.cfg s.reqUnit = some unit ∧
      requestOf s.reqCmd = some r ∧
      runEncode s = sendRequest r sys unit { s with aSys := some sys, aUnit := some unit }) := by
  unfold runEncode parseSys
  by_cases h0 : s.reqSys = none
  · exact .inl ⟨h0, by simp [h0]⟩
  · cases h1 : parseAddress s.cfg s.reqSys with
    | none => exact .inr (.inl ⟨h0, rfl, by simp [h0]⟩)
    | some sys =>
      simp only [h0, ↓reduceIte, parseUnit]
      by_cases h2 : s.reqUnit = none
      · exact .inr (.inr (.inl ⟨sys, rfl, h2, by simp [h2]⟩))
      · cases h3 : parseAddress s.cfg s.reqUnit with
        | none => exact .inr (.inr (.inr (.inl ⟨sys, rfl, h2, rfl, by simp [h2]⟩)))
        | some unit =>
          simp only [h2, ↓reduceIte, mapCommand]
          cases h4 : requestOf s.reqCmd with
          | none => exact .inr (.inr (.inr (.inr (.inl ⟨sys, unit, rfl, rfl, rfl, rfl⟩))))
          | some r => exact .inr (.inr (.inr (.inr (.inr ⟨sys, unit, r, rfl, rfl, rfl, rfl⟩))))

/-! ## The component rows inside a running operation -/

/-- A pair read on its own is Empty, an append, or a fault at capacity (R74, R75). -/
theorem readPair_cases (d0 d1 : Nat) (s : State) :
    (pairToBit s.cfg d0 d1 = none ∧ readPair d0 d1 s = .next (failEmpty s)) ∨
    (∃ b, pairToBit s.cfg d0 d1 = some b ∧ s.bits.length < s.cfg.bitCap ∧
      readPair d0 d1 s = .next { s with bits := s.bits ++ [b], pulseIdx := s.pulseIdx + 1 }) ∨
    (∃ b, pairToBit s.cfg d0 d1 = some b ∧ ¬ s.bits.length < s.cfg.bitCap ∧
      readPair d0 d1 s = .fault .appendBeyondCapacity) := by
  unfold readPair
  cases h : pairToBit s.cfg d0 d1 with
  | none => exact .inl ⟨rfl, rfl⟩
  | some b =>
    by_cases hl : s.bits.length < s.cfg.bitCap
    · exact .inr (.inl ⟨b, rfl, hl, by simp [hl]⟩)
    · exact .inr (.inr ⟨b, rfl, hl, by simp [hl]⟩)

/-- Pulses are appended to POUT below capacity, and are a fault at it (R77). -/
theorem writePulses_cases (p : Train) (n : Nat) (s : State) :
    (s.pout.length + p.length ≤ s.cfg.poutCap ∧
      writePulses p n s = .next { s with pout := s.pout ++ p, pulseIdx := s.pulseIdx + n }) ∨
    (¬ s.pout.length + p.length ≤ s.cfg.poutCap ∧ writePulses p n s = .fault .appendBeyondCapacity) := by
  unfold writePulses
  by_cases h : s.pout.length + p.length ≤ s.cfg.poutCap
  · exact .inl ⟨h, by simp [h]⟩
  · exact .inr ⟨h, by simp [h]⟩

/-- A given frame is read if BITS can hold it, and is Empty otherwise (R75 (a)). -/
theorem readGivenFrame_cases (b : Bits) (s : State) :
    (b.length ≤ s.cfg.bitCap ∧ readGivenFrame b s = readFrame { s with bits := b, pulseIdx := b.length }) ∨
    (¬ b.length ≤ s.cfg.bitCap ∧ readGivenFrame b s = failEmpty s) := by
  unfold readGivenFrame
  by_cases h : b.length ≤ s.cfg.bitCap
  · exact .inl ⟨h, by simp [h]⟩
  · exact .inr ⟨h, by simp [h]⟩

end Sys2Proof.Machine
end

