-- ==== Sys2Proof/Laws/Next.lean ====
section
/-! SUPPORT. How each shared operation of the rows can answer a next state, said once, and what every body of an operation leaves unchanged. -/

namespace Sys2Proof.Machine

/-! ## Next states of the shared operations -/

theorem startOperation_next {op : BitVec 2} {run : State → State} {s t : State} (h : startOperation op run s = .next t) :
    (s.acceptsStart = true ∧ t = run (acceptStart op s)) ∨ (s.acceptsStart = false ∧ t = s) := by
  cases ha : s.acceptsStart
  · rw [startOperation_ignored ha] at h; cases h; exact .inr ⟨rfl, rfl⟩
  · rw [startOperation_accepted ha] at h; cases h; exact .inl ⟨rfl, rfl⟩

theorem whileBusy_next {s t : State} {o : Host.Outcome State Fault Refusal} (h : whileBusy s o = .next t) :
    (s.busy = true ∧ o = .next t) ∨ (s.busy = false ∧ t = s) := by
  cases hb : s.busy
  · rw [whileBusy_idle hb] at h; cases h; exact .inr ⟨rfl, rfl⟩
  · rw [whileBusy_busy hb] at h; exact .inl ⟨rfl, h⟩

/-- The four operation codes, as the rows tell them apart. -/
theorem opRun_cases (s : State) : s.opRun = 0#2 ∨ s.opRun = 1#2 ∨ s.opRun = 2#2 ∨ s.opRun = 3#2 := by
  generalize s.opRun = x
  revert x
  decide

theorem frameRequest_next {n k : Nat} {r : Request} {sys unit : Nat} {s t : State}
    (h : frameRequest n k r sys unit s = .next t) :
    t = s ∨ (s.busy = true ∧ s.opRun = 1#2 ∧ t = readGivenFrame (Instr.requestBits n k sys unit) s) ∨
    (s.busy = true ∧ s.opRun = 2#2 ∧ s.cfg.TableLayout n ∧ t = buildGiven r sys unit s) := by
  rcases whileBusy_next h with ⟨hb, h⟩ | ⟨_, h⟩
  · rcases opRun_cases s with ho | ho | ho | ho <;> rw [ho] at h
    · cases h; exact .inl rfl
    · cases h; exact .inr (.inl ⟨hb, ho, rfl⟩)
    · change (if _ then _ else _) = _ at h
      split at h
      · cases h
      · rename_i h1
        cases h
        exact .inr (.inr ⟨hb, ho, not_not.mp h1, rfl⟩)
    · cases h; exact .inl rfl
  · exact .inl h

theorem frameReport_next {n toSys toUnit sys unit : Nat} {state : Bool} {s t : State}
    (h : frameReport n toSys toUnit sys unit state s = .next t) :
    t = s ∨ (s.busy = true ∧ s.opRun = 1#2 ∧ t = readGivenFrame (Instr.reportBits n toSys toUnit sys unit state) s) := by
  rcases whileBusy_next h with ⟨hb, h⟩ | ⟨_, h⟩
  · rcases opRun_cases s with ho | ho | ho | ho <;> rw [ho] at h
    · cases h; exact .inl rfl
    · cases h; exact .inr ⟨hb, ho, rfl⟩
    · cases h
    · cases h; exact .inl rfl
  · exact .inl h

/-- A frame that is no row is read by a decode, passed over by VALIDATE and the reserved operation, and by an idle block (R62, R64). -/
theorem unlistedFrame_next {b : Bits} {s t : State} (h : unlistedFrame b s = .next t) :
    t = s ∨ (s.busy = true ∧ s.opRun = 1#2 ∧ t = readGivenFrame b s) := by
  rcases whileBusy_next h with ⟨hb, h⟩ | ⟨_, h⟩
  · rcases opRun_cases s with ho | ho | ho | ho <;> rw [ho] at h
    · cases h; exact .inl rfl
    · cases h; exact .inr ⟨hb, ho, rfl⟩
    · cases h
    · cases h; exact .inl rfl
  · exact .inl h

/-- A pair that is no symbol is a turn of a decode's loop, passed over by VALIDATE and the reserved operation, and by an idle block (R63, R64). -/
theorem unlistedPair_next {d0 d1 : Nat} {s t : State} (h : unlistedPair d0 d1 s = .next t) :
    t = s ∨ (s.busy = true ∧ s.opRun = 1#2 ∧ readPair d0 d1 s = .next t) := by
  unfold unlistedPair at h
  split at h
  · rcases whileBusy_next h with ⟨hb, h⟩ | ⟨_, h⟩
    · rcases opRun_cases s with ho | ho | ho | ho <;> rw [ho] at h
      · cases h; exact .inl rfl
      · exact .inr ⟨hb, ho, h⟩
      · cases h
      · cases h; exact .inl rfl
    · exact .inl h
  · cases h

theorem bitSymbol_next {b : Bool} {d0 d1 : Nat} {s t : State} (h : bitSymbol b d0 d1 s = .next t) :
    t = s ∨ (s.busy = true ∧ s.opRun = 1#2 ∧ readPair d0 d1 s = .next t) ∨
    (s.busy = true ∧ s.opRun = 2#2 ∧ writePulses (bitToPair s.cfg b) 1 s = .next t) := by
  rcases whileBusy_next h with ⟨hb, h⟩ | ⟨_, h⟩
  · rcases opRun_cases s with ho | ho | ho | ho <;> rw [ho] at h
    · cases h; exact .inl rfl
    · exact .inr (.inl ⟨hb, ho, h⟩)
    · exact .inr (.inr ⟨hb, ho, h⟩)
    · cases h; exact .inl rfl
  · exact .inl h

theorem trailerSymbol_next {d0 d1 : Nat} {s t : State} (h : trailerSymbol d0 d1 s = .next t) :
    t = s ∨ (s.busy = true ∧ s.opRun = 1#2 ∧ t = failEmpty s) ∨
    (s.busy = true ∧ s.opRun = 2#2 ∧ writePulses (trailer s.cfg) 0 s = .next t) := by
  rcases whileBusy_next h with ⟨hb, h⟩ | ⟨_, h⟩
  · rcases opRun_cases s with ho | ho | ho | ho <;> rw [ho] at h
    · cases h; exact .inl rfl
    · change readTrailer d0 d1 s = _ at h
      unfold readTrailer at h
      split at h <;> cases h
      · exact .inl rfl
      · exact .inr (.inl ⟨hb, ho, rfl⟩)
    · exact .inr (.inr ⟨hb, ho, h⟩)
    · cases h; exact .inl rfl
  · exact .inl h

theorem endInFailure_next {st : Status} {s t : State} (h : endInFailure st s = .next t) :
    (s.busy = true ∧ st.raisedBy s.opRun = true ∧ t = failWith st s) ∨ (s.busy = false ∧ t = s) := by
  rcases whileBusy_next h with ⟨hb, h⟩ | h
  · split at h
    · rename_i hr; cases h; exact .inl ⟨hb, hr, rfl⟩
    · cases h
  · exact .inr h

theorem endInSuccess_next {s t : State} (h : endInSuccess s = .next t) :
    (s.busy = false ∧ t = s) ∨ (s.busy = true ∧ s.opRun = 0#2 ∧ t = succeed s) ∨
    (∃ p, s.busy = true ∧ s.opRun = 1#2 ∧ s.payload = some p ∧ t = deliverReport p s) ∨
    (∃ sys unit r, s.busy = true ∧ s.opRun = 2#2 ∧ s.aSys = some sys ∧ s.aUnit = some unit ∧ requestOf s.reqCmd = some r ∧
      t = deliverRequest r sys unit s) := by
  rcases whileBusy_next h with ⟨hb, h⟩ | h
  · rcases opRun_cases s with ho | ho | ho | ho <;> rw [ho] at h
    · cases h; exact .inr (.inl ⟨hb, ho, rfl⟩)
    · change (match s.payload with | some p => _ | none => _) = _ at h
      split at h <;> cases h
      rename_i p hp
      exact .inr (.inr (.inl ⟨p, hb, ho, hp, rfl⟩))
    · change (match s.aSys, s.aUnit, requestOf s.reqCmd with | some _, some _, some _ => _ | _, _, _ => _) = _ at h
      split at h <;> cases h
      rename_i sys unit r h1 h2 h3
      exact .inr (.inr (.inr ⟨sys, unit, r, hb, ho, h1, h2, h3, rfl⟩))
    · cases h
  · exact .inl h

theorem execStErrArg_next {s t : State} (h : execStErrArg s = .next t) :
    (s.busy = false ∧ t = s) ∨ (s.busy = true ∧ s.opRun = 2#2 ∧ s.reason ≠ .none ∧ t = failWith .errArg s) := by
  rcases whileBusy_next h with ⟨hb, h⟩ | h
  · split at h
    · cases h
    · rename_i hn
      rcases endInFailure_next h with ⟨_, hr, ht⟩ | ⟨hf, _⟩
      · have ho : s.opRun = 2#2 := by simpa [Status.raisedBy] using hr
        exact .inr ⟨hb, ho, fun he => hn ⟨ho, he⟩, ht⟩
      · simp [hb] at hf
  · exact .inl h

theorem recordReason_next {r : Reason} {s t : State} (h : recordReason r s = .next t) :
    (s.busy = false ∧ t = s) ∨ (s.busy = true ∧ t = { s with reason := r }) := by
  rcases whileBusy_next h with ⟨hb, h⟩ | h
  · cases h; exact .inr ⟨hb, rfl⟩
  · exact .inl h

/-! ## What the bodies of the operations leave unchanged -/

/-- The parts of a state that no operation of the block writes: configuration, input state, the model's schedule (R10 (a), R41), and the
operation code sampled at START. -/
abbrev Keeps (s t : State) : Prop := (s.SameInputs t ∧ s.SameSchedule t) ∧ t.opRun = s.opRun

theorem Keeps.refl (s : State) : Keeps s s := by simp [Keeps, State.SameInputs, State.SameSchedule]

theorem failEmpty_keeps (s : State) : Keeps s (failEmpty s) := by simp [Keeps, State.SameInputs, State.SameSchedule, failEmpty]

theorem readFrame_keeps (s : State) : Keeps s (readFrame s) := by
  rcases readFrame_ends s with ⟨fr, p, k, _, h⟩ | ⟨fr, pl, k, _, h⟩ <;> rw [h] <;>
    simp [Keeps, State.SameInputs, State.SameSchedule]

theorem readTrain_keeps (s : State) : Keeps s (readTrain s) := by
  rcases readTrain_cases s with ⟨_, h⟩ | ⟨b, _, h⟩ <;> rw [h]
  · exact failEmpty_keeps { s with pulseIdx := pulseIndexAfterDecode s.cfg s.pin s.pinOvf }
  · exact readFrame_keeps { s with pulseIdx := pulseIndexAfterDecode s.cfg s.pin s.pinOvf, bits := b }

theorem readGivenFrame_keeps (b : Bits) (s : State) : Keeps s (readGivenFrame b s) := by
  rcases readGivenFrame_cases b s with ⟨_, h⟩ | ⟨_, h⟩ <;> rw [h]
  · exact readFrame_keeps { s with bits := b, pulseIdx := b.length }
  · exact failEmpty_keeps s

theorem buildGiven_keeps (r : Request) (sys unit : Nat) (s : State) : Keeps s (buildGiven r sys unit s) := by
  rcases buildGiven_cases r sys unit s with ⟨_, _, h⟩ | ⟨_, h⟩ <;> rw [h, buildRequest_eq] <;>
    simp [Keeps, State.SameInputs, State.SameSchedule]

theorem sendRequest_keeps (r : Request) (sys unit : Nat) (s : State) : Keeps s (sendRequest r sys unit s) := by
  rw [sendRequest_eq]
  simp [Keeps, State.SameInputs, State.SameSchedule]

theorem runEncode_keeps (s : State) : Keeps s (runEncode s) := by
  rcases runEncode_cases s with ⟨_, h⟩ | ⟨_, _, h⟩ | ⟨sys, _, _, h⟩ | ⟨sys, _, _, _, h⟩ | ⟨sys, unit, _, _, _, h⟩ |
    ⟨sys, unit, r, _, _, _, h⟩ <;> rw [h]
  case inr.inr.inr.inr.inr => exact sendRequest_keeps r sys unit { s with aSys := some sys, aUnit := some unit }
  all_goals simp [Keeps, State.SameInputs, State.SameSchedule, failArgument]

theorem runValidate_keeps (s : State) : Keeps s (runValidate s) := by
  unfold runValidate
  split <;> simp [Keeps, State.SameInputs, State.SameSchedule]

theorem runDecode_keeps (s : State) : Keeps s (runDecode s) := by
  unfold runDecode
  split
  · exact readTrain_keeps s
  · simp [Keeps, State.SameInputs, State.SameSchedule]

theorem runReserved_keeps (s : State) : Keeps s (runReserved s) := by
  simp [Keeps, State.SameInputs, State.SameSchedule, runReserved]

/-- The body of the operation whose code is known. -/
theorem runOperation_eq (s : State) :
    (s.opRun = 0#2 ∧ runOperation s = runValidate s) ∨ (s.opRun = 1#2 ∧ runOperation s = runDecode s) ∨
    (s.opRun = 2#2 ∧ runOperation s = runEncode s) ∨ (s.opRun = 3#2 ∧ runOperation s = runReserved s) := by
  unfold runOperation
  rcases opRun_cases s with ho | ho | ho | ho <;> rw [ho] <;> simp

theorem runOperation_keeps (s : State) : Keeps s (runOperation s) := by
  rcases runOperation_eq s with ⟨_, h⟩ | ⟨_, h⟩ | ⟨_, h⟩ | ⟨_, h⟩ <;> rw [h]
  · exact runValidate_keeps s
  · exact runDecode_keeps s
  · exact runEncode_keeps s
  · exact runReserved_keeps s

theorem writePulses_next {p : Train} {n : Nat} {s t : State} (h : writePulses p n s = .next t) :
    s.pout.length + p.length ≤ s.cfg.poutCap ∧ t = { s with pout := s.pout ++ p, pulseIdx := s.pulseIdx + n } := by
  rcases writePulses_cases p n s with ⟨hl, he⟩ | ⟨_, he⟩ <;> rw [he] at h <;> cases h
  exact ⟨hl, rfl⟩

theorem readPair_next {d0 d1 : Nat} {s t : State} (h : readPair d0 d1 s = .next t) :
    t = failEmpty s ∨
    ∃ b, pairToBit s.cfg d0 d1 = some b ∧ s.bits.length < s.cfg.bitCap ∧
      t = { s with bits := s.bits ++ [b], pulseIdx := s.pulseIdx + 1 } := by
  rcases readPair_cases d0 d1 s with ⟨_, he⟩ | ⟨b, hb, hl, he⟩ | ⟨_, _, _, he⟩ <;> rw [he] at h <;> cases h
  · exact .inl rfl
  · exact .inr ⟨b, hb, hl, rfl⟩

/-- OP_VALIDATE's body writes the verdict (R107). -/
theorem runValidate_cases (s : State) :
    (validate s.cfg s.pin s.pinOvf = true ∧ runValidate s = succeed s) ∨
    (validate s.cfg s.pin s.pinOvf = false ∧ runValidate s = failWith .invalid s) := by
  unfold runValidate
  cases h : validate s.cfg s.pin s.pinOvf <;> simp

/-- OP_DECODE's body ends at the gate, at the pulse layer, or goes on to the frame (R108). -/
theorem runDecode_cases (s : State) :
    (validate s.cfg s.pin s.pinOvf = false ∧ runDecode s = failWith .noMatch s) ∨
    (pulseDecode s.cfg s.pin s.pinOvf = none ∧
      runDecode s = failEmpty { s with pulseIdx := pulseIndexAfterDecode s.cfg s.pin s.pinOvf }) ∨
    (∃ b, pulseDecode s.cfg s.pin s.pinOvf = some b ∧
      runDecode s = readFrame { s with pulseIdx := pulseIndexAfterDecode s.cfg s.pin s.pinOvf, bits := b }) := by
  unfold runDecode
  cases h : validate s.cfg s.pin s.pinOvf
  · exact .inl ⟨rfl, rfl⟩
  · rcases readTrain_cases s with h' | h'
    · exact .inr (.inl h')
    · exact .inr (.inr h')

/-! ## The rows -/

/-- Everything a row can do when it answers a next state: what holds of each of these states holds of every next state of `exec`. -/
theorem exec_next {i : Instr} {s t : State} (he : exec i s = .next t) {P : State → Prop}
    (hself : P s)
    (hrun : ∀ op, s.acceptsStart = true → P (runOperation (acceptStart op s)))
    (hcmd : ∀ c, i ∈ [Instr.rcAbsent, .rcOn, .rcOff, .rcQuery] → s.busy = false → P { s with reqCmd := c })
    (hgiven : ∀ b, s.busy = true → s.opRun = 1#2 → P (readGivenFrame b s))
    (hbuild : ∀ r sys unit, s.busy = true → s.opRun = 2#2 → P (buildGiven r sys unit s))
    (hempty : s.busy = true → s.opRun = 1#2 → P (failEmpty s))
    (hbit : ∀ b, s.busy = true → P { s with bits := s.bits ++ [b], pulseIdx := s.pulseIdx + 1 })
    (hpulses : ∀ p n, s.busy = true → P { s with pout := s.pout ++ p, pulseIdx := s.pulseIdx + n })
    (hfail : ∀ st, s.busy = true → P (failWith st s))
    (hsucc : s.busy = true → P (succeed s))
    (hrep : ∀ p, s.busy = true → P (deliverReport p s))
    (hreq : ∀ r sys unit, s.busy = true → P (deliverRequest r sys unit s))
    (hidle : s.busy = true → P { s with status := .idle })
    (hreason : ∀ r, s.busy = true → P { s with reason := r }) : P t := by
  have hop : ∀ {op : BitVec 2} {run : State → State}, (∀ u : State, u.opRun = op → runOperation u = run u) → startOperation op run s = .next t → P t := by
    intro op run hr he
    rcases startOperation_next he with ⟨ha, rfl⟩ | ⟨_, rfl⟩
    · rw [← hr (acceptStart op s) rfl]; exact hrun op ha
    · exact hself
  have hw : ∀ c, i ∈ [Instr.rcAbsent, .rcOn, .rcOff, .rcQuery] → P (writeReqCmd c s) := by
    intro c hi
    unfold writeReqCmd
    split
    · exact hself
    · rename_i h; exact hcmd c hi (by simpa using h)
  have hfr : ∀ {n k r sys unit}, frameRequest n k r sys unit s = .next t → P t := by
    intro n k r sys unit he
    rcases frameRequest_next he with rfl | ⟨hb, ho, rfl⟩ | ⟨hb, ho, _, rfl⟩
    · exact hself
    · exact hgiven _ hb ho
    · exact hbuild _ _ _ hb ho
  have hfp : ∀ {n a b x y q}, frameReport n a b x y q s = .next t → P t := by
    intro n a b x y q he
    rcases frameReport_next he with rfl | ⟨hb, ho, rfl⟩
    · exact hself
    · exact hgiven _ hb ho
  have hbs : ∀ {b d0 d1}, bitSymbol b d0 d1 s = .next t → P t := by
    intro b d0 d1 he
    rcases bitSymbol_next he with rfl | ⟨hb, ho, h⟩ | ⟨hb, ho, h⟩
    · exact hself
    · rcases readPair_next h with rfl | ⟨b, _, _, rfl⟩
      · exact hempty hb ho
      · exact hbit b hb
    · obtain ⟨_, rfl⟩ := writePulses_next h
      exact hpulses _ _ hb
  have hef : ∀ {st}, endInFailure st s = .next t → P t := by
    intro st he
    rcases endInFailure_next he with ⟨hb, _, rfl⟩ | ⟨_, rfl⟩
    · exact hfail _ hb
    · exact hself
  have hrr : ∀ {r}, recordReason r s = .next t → P t := by
    intro r he
    rcases recordReason_next he with ⟨_, rfl⟩ | ⟨hb, rfl⟩
    · exact hself
    · exact hreason r hb
  cases i with
  | opValidate => exact hop (fun u ho => by simp [runOperation, ho]) he
  | opDecode => exact hop (fun u ho => by simp [runOperation, ho]) he
  | opEncode => exact hop (fun u ho => by simp [runOperation, ho]) he
  | opReserved => exact hop (fun u ho => by simp [runOperation, ho]) he
  | rcAbsent => cases he; exact hw _ (by simp)
  | rcOn => cases he; exact hw _ (by simp)
  | rcOff => cases he; exact hw _ (by simp)
  | rcQuery => cases he; exact hw _ (by simp)
  | frameOn _ _ => exact hfr he
  | frameOff _ _ => exact hfr he
  | frameStateQuery _ _ => exact hfr he
  | frameStateInform _ _ _ _ _ => exact hfp he
  | frameOnSmall _ _ => exact hfr he
  | frameOffSmall _ _ => exact hfr he
  | frameStateQuerySmall _ _ => exact hfr he
  | frameStateInformSmall _ _ _ _ _ => exact hfp he
  | symBit0 _ _ => exact hbs he
  | symBit1 _ _ => exact hbs he
  | symTrailer _ _ =>
    rcases trailerSymbol_next he with rfl | ⟨hb, ho, rfl⟩ | ⟨hb, ho, h⟩
    · exact hself
    · exact hempty hb ho
    · obtain ⟨_, rfl⟩ := writePulses_next h
      exact hpulses _ _ hb
  | stIdle =>
    rcases whileBusy_next he with ⟨hb, he⟩ | ⟨_, rfl⟩
    · cases he; exact hidle hb
    · exact hself
  | stOk =>
    rcases endInSuccess_next he with ⟨_, rfl⟩ | ⟨hb, ho, rfl⟩ | ⟨p, hb, ho, _, rfl⟩ | ⟨_, _, _, hb, ho, _, _, _, rfl⟩
    · exact hself
    · exact hsucc hb
    · exact hrep _ hb
    · exact hreq _ _ _ hb
  | stInvalid => exact hef he
  | stNoMatch => exact hef he
  | stErrArg =>
    rcases execStErrArg_next he with ⟨_, rfl⟩ | ⟨hb, ho, hr, rfl⟩
    · exact hself
    · exact hfail _ hb
  | stBadOp => exact hef he
  | stFatalSizing => exact hef he
  | stFatalAlloc => cases he
  | rsNone => exact hrr he
  | rsSysMissing => exact hrr he
  | rsSysInvalid => exact hrr he
  | rsUnitMissing => exact hrr he
  | rsUnitInvalid => exact hrr he
  | rsCmdMissing => exact hrr he

end Sys2Proof.Machine
end

