-- ==== Sys2Proof/Laws/Invariant.lean ====
section
/-! SUPPORT. The invariant of Safety.lean under each shared operation, and the buffers' form under every memory operation. -/

namespace Sys2Proof.Machine

/-! ## Buffers -/

theorem trainFits_append {c : Config} {p q : Train} (hp : trainFits c p) (hq : trainFits c q) : trainFits c (p ++ q) := by
  intro d hd
  rcases List.mem_append.mp hd with h | h
  · exact hp d h
  · exact hq d h

/-- The three references fit DUR_WIDTH in a legal configuration (R6 (f)). -/
theorem references_fit {c : Config} (h : c.Legal) :
    c.pulseLow < 2 ^ c.durWidth ∧ c.pulseHigh < 2 ^ c.durWidth ∧ c.pulseFooter < 2 ^ c.durWidth := by
  have hb := legal_bands h
  have : 0 < 2 ^ c.durWidth := by positivity
  omega

theorem trainFits_bitToPair {c : Config} (h : c.Legal) (b : Bool) : trainFits c (bitToPair c b) := by
  have hr := references_fit h
  intro d hd
  cases b <;> simp [bitToPair] at hd <;> rcases hd with rfl | rfl <;> simp [hr]

theorem trainFits_trailer {c : Config} (h : c.Legal) : trainFits c (trailer c) := by
  have hr := references_fit h
  intro d hd
  simp [trailer] at hd
  rcases hd with rfl | rfl <;> simp [hr]

theorem trainFits_pulseEncode {c : Config} (h : c.Legal) (b : Bits) : trainFits c (pulseEncode c b) := by
  refine trainFits_append ?_ (trainFits_trailer h)
  intro d hd
  obtain ⟨x, _, hx⟩ := List.mem_flatMap.mp hd
  exact trainFits_bitToPair h x d hx

/-- PIN_CLEAR keeps the buffers' form (R31). -/
theorem pinClear_wf {s : State} (h : Memory.wf s) : Memory.wf (pinClear s) := by
  unfold pinClear
  split
  · exact h
  · exact ⟨⟨by simp, fun d hd => by simp at hd⟩, h.2⟩

/-- PIN_PUSH keeps the buffers' form (R31). -/
theorem pinPush_wf {s : State} {d : Nat} (h : Memory.wf s) (hd : d < 2 ^ s.cfg.durWidth) : Memory.wf (pinPush d s) := by
  unfold pinPush
  split
  · exact h
  · split
    · rename_i hl
      refine ⟨⟨?_, trainFits_append h.1.2 ?_⟩, h.2⟩
      · simp only [List.length_append, List.length_cons, List.length_nil]; omega
      · intro x hx
        rw [List.mem_singleton.mp hx]
        exact hd
    · exact h

/-- Appending a bit below capacity keeps the buffers' form (R15). -/
theorem appendBit_wf {s : State} {b : Bool} {n : Nat} (h : Memory.wf s) (hl : s.bits.length < s.cfg.bitCap) :
    Memory.wf { s with bits := s.bits ++ [b], pulseIdx := n } := by
  refine ⟨h.1, ?_, h.2.2⟩
  simp only [List.length_append, List.length_cons, List.length_nil]; omega

/-- Appending pulses below capacity keeps the buffers' form (R20). -/
theorem appendPulses_wf {s : State} {p : Train} {n : Nat} (h : Memory.wf s) (hl : s.pout.length + p.length ≤ s.cfg.poutCap)
    (hp : trainFits s.cfg p) : Memory.wf { s with pout := s.pout ++ p, pulseIdx := n } := by
  refine ⟨h.1, h.2.1, ?_, trainFits_append h.2.2.2 hp⟩
  simp only [List.length_append]; omega

/-- PULSE_ENCODE's train keeps the buffers' form (R77). -/
theorem emitTrain_wf {s : State} (hc : s.cfg.Legal) (h : Memory.wf s) : Memory.wf (emitTrain s) := by
  refine ⟨h.1, h.2.1, ?_, trainFits_pulseEncode hc _⟩
  have := h.2.1
  simp only [emitTrain, pulseEncode_length, Config.poutCap, Config.maxRawLength, Config.bitCap] at this ⊢
  omega

/-- The reset memory is in form (R29). -/
theorem reset_wf : Memory.wf State.reset := by decide

/-- Taking a whole train at once keeps the buffers' form (R31). -/
theorem loadTrain_wf {s : State} {p : Train} (h : Memory.wf s) (hp : trainFits s.cfg p) : Memory.wf (loadTrain p s) :=
  ⟨⟨by simp [loadTrain], fun d hd => hp d (List.mem_of_mem_take hd)⟩, h.2⟩

/-- The bits PULSE_DECODE reads from PIN fit BITS (R75 (a)). -/
theorem decodedBits_wf {s : State} {b : Bits} {n : Nat} (h : Memory.wf s) (hb : pulseDecode s.cfg s.pin s.pinOvf = some b) :
    Memory.wf { s with bits := b, pulseIdx := n } := by
  refine ⟨h.1, ?_, h.2.2⟩
  have h1 := pulseDecode_length hb
  have h2 := h.1.1
  simp only [Config.pinCap, Config.maxRawLength, Config.bitCap] at *
  omega

/-- A built frame fits BITS (R87, R91). -/
theorem buildRequest_wf {s : State} {r : Request} {sys unit : Nat} (h : Memory.wf s) : Memory.wf (buildRequest r sys unit s) := by
  rw [buildRequest_eq]
  refine ⟨h.1, ?_, h.2.2⟩
  simp only [loadFrame_bits, headerBits_length, loadFrame_cfg, Config.bitCap]
  omega

/-- Clearing the buffers the block owns keeps the form (R27). -/
theorem acceptStart_wf {s : State} {op : BitVec 2} (h : Memory.wf s) : Memory.wf (acceptStart op s) :=
  ⟨h.1, by simp, by simp [trainFits]⟩

/-! ## The ends of an operation -/

/-- Inside a running operation nothing has been delivered (R27). -/
theorem Inv_running {s : State} (h : s.Inv) (hb : s.busy = true) :
    s.done = false ∧ s.fatal = false ∧ s.status = .idle ∧ s.repeatCount = 0#5 ∧ s.msgValid = false ∧ s.msgState = none ∧
      s.msgSys = [] ∧ s.msgUnit = [] := by
  have hd : s.done = false := by
    have := h.handshake.1
    simpa [hb] using this
  have hs := h.handshake.2.2.1 hd
  have hf : s.fatal = false := by
    have := h.handshake.2.1
    rw [hs] at this
    simpa using this
  have ho := h.outputs.1 hd
  have hm := h.outputs.2.2.2.2.2 ho.2
  exact ⟨hd, hf, hs, ho.1, ho.2, hm⟩

theorem failWith_Inv {s : State} {st : Status} (h : s.Inv) (hb : s.busy = true) (hr : st.raisedBy s.opRun = true)
    (ho : st ≠ .ok) (he : st = .errArg → s.reason ≠ .none) : (failWith st s).Inv := by
  have hrun := Inv_running h hb
  refine ⟨h.legal, ⟨h.memory.1, h.memory.2.1, by simp [trainFits]⟩, ?_, ?_, ?_, ?_⟩
  · exact ⟨h.registers.1, h.registers.2.1, h.registers.2.2.1, h.registers.2.2.2.1, h.registers.2.2.2.2.1, by simp, by simp⟩
  · refine ⟨by simp, ?_, by simp, by simpa using hr⟩
    simp [hrun.2.1]
  · refine ⟨fun _ => ?_, by simp⟩
    by_cases hst : st = .errArg
    · simp [hst, he hst]
    · simp [hst]
  · refine ⟨by simp, fun _ _ => by simp [State.OutputsClear], ?_, ?_, by simp, by simp⟩ <;>
      · intro _ hok
        simp at hok
        exact absurd hok ho

theorem succeed_Inv {s : State} (h : s.Inv) (hb : s.busy = true) (ho : s.opRun = 0#2) : (succeed s).Inv := by
  have hrun := Inv_running h hb
  refine ⟨h.legal, h.memory, h.registers, ⟨by simp, by simp [hrun.2.1], by simp, by simp [Status.raisedBy, ho]⟩,
    ⟨by simp, by simp⟩, ⟨by simp, by simp, ?_, ?_, h.outputs.2.2.2.2.1, h.outputs.2.2.2.2.2⟩⟩
  · simp [ho, hrun.2.2.2.1]
  · simp [ho, hrun.2.2.2.2.1]

theorem deliverReport_Inv {s : State} {p : Payload} (h : s.Inv) (hb : s.busy = true) (ho : s.opRun = 1#2) :
    (deliverReport p s).Inv := by
  have hrun := Inv_running h hb
  refine ⟨h.legal, h.memory, ?_, ⟨by simp, by simp [hrun.2.1], by simp, by simp [Status.raisedBy, ho]⟩,
    ⟨by simp, by simp⟩, ⟨by simp, by simp, ?_, ?_, h.outputs.2.2.2.2.1, by simp⟩⟩
  · exact ⟨h.registers.1, h.registers.2.1, h.registers.2.2.1, h.registers.2.2.2.1, h.registers.2.2.2.2.1,
      by simpa using formatAddress_length _, by simpa using formatAddress_length _⟩
  · simp [ho, hrun.2.2.2.1]
  · simp [ho]

theorem deliverRequest_Inv {s : State} {r : Request} {sys unit : Nat} (h : s.Inv) (hb : s.busy = true) (ho : s.opRun = 2#2) :
    (deliverRequest r sys unit s).Inv := by
  have hrun := Inv_running h hb
  refine ⟨h.legal, h.memory, ?_, ⟨by simp, by simp [hrun.2.1], by simp, by simp [Status.raisedBy, ho]⟩,
    ⟨by simp, by simp⟩, ⟨by simp, by simp, ?_, ?_, h.outputs.2.2.2.2.1, by simp⟩⟩
  · exact ⟨h.registers.1, h.registers.2.1, h.registers.2.2.1, h.registers.2.2.2.1, h.registers.2.2.2.2.1,
      by simpa using formatAddress_length _, by simpa using formatAddress_length _⟩
  · simp [ho]
  · simp [ho]

/-! ## The start of an operation and its steps -/

theorem acceptStart_Inv {s : State} {op : BitVec 2} (h : s.Inv) (ha : s.acceptsStart = true) : (acceptStart op s).Inv := by
  have hf := (acceptsStart_iff.mp ha).2
  refine ⟨h.legal, ⟨h.memory.1, by simp, by simp [trainFits]⟩, by simp [State.RegistersWf], ⟨by simp, by simp [hf], by simp, by simp⟩,
    ⟨by simp, by simp⟩, ⟨by simp, by simp, by simp, by simp, by simp, by simp⟩⟩

/-- New bits in BITS, read by a decode: only the bound on them and on the cursor matters. -/
theorem setBits_Inv {s : State} {b : Bits} {i k : Nat} {f : Option Frame} {p : Option Payload} (h : s.Inv) (hb : b.length ≤ s.cfg.bitCap)
    (hk : k ≤ b.length) (ho : s.opRun ≠ 1#2 → k = 0) (hf : ∀ x ∈ f, x.acceptable s.cfg = true)
    (hp : ∀ x ∈ p, x.acceptable s.cfg = true) :
    State.Inv { s with bits := b, pulseIdx := i, cur := k, frame := f, payload := p } :=
  ⟨h.legal, ⟨h.memory.1, hb, h.memory.2.2⟩,
    ⟨⟨hk, ho⟩, h.registers.2.1, h.registers.2.2.1, hf, hp, h.registers.2.2.2.2.2⟩, h.handshake, h.reason, h.outputs⟩

theorem failEmpty_Inv {s : State} (h : s.Inv) (hb : s.busy = true) (ho : s.opRun = 1#2) : (failEmpty s).Inv :=
  failWith_Inv
    (setBits_Inv h (b := []) (by simp) (i := s.pulseIdx) (k := 0) (by simp) (by simp) h.registers.2.2.2.1 h.registers.2.2.2.2.1)
    hb (by simp [Status.raisedBy, ho]) (by simp) (by simp)

theorem readReport_Inv {s : State} (h : s.Inv) (hb : s.busy = true) (ho : s.opRun = 1#2) : (readReport s).Inv := by
  have hcur := decodeStateInform_cursor s.cfg h.registers.1.1
  rcases readReport_cases s with ⟨p, k, hd, hr⟩ | ⟨k, hd, hr⟩
  · rw [hd] at hcur
    have hp := (decodeStateInform_some hd).1
    rw [hr]
    refine deliverReport_Inv ?_ hb ho
    exact setBits_Inv h h.memory.2.1 hcur (fun hne => absurd ho hne) h.registers.2.2.2.1
      (fun x hx => by cases hx; exact hp)
  · rw [hd] at hcur
    rw [hr]
    refine failWith_Inv ?_ hb (by simp [Status.raisedBy, ho]) (by simp) (by simp)
    exact setBits_Inv h h.memory.2.1 hcur (fun hne => absurd ho hne) h.registers.2.2.2.1 (fun x hx => by cases hx)

theorem readFrame_Inv {s : State} (h : s.Inv) (hb : s.busy = true) (ho : s.opRun = 1#2) : (readFrame s).Inv := by
  have hcur := decodeFrame_cursor s.cfg s.bits
  have hset : ∀ f k, (∀ x ∈ f, Frame.acceptable s.cfg x = true) → k ≤ s.bits.length →
      State.Inv { s with frame := f, cur := k } := fun f k hf hk =>
    setBits_Inv h h.memory.2.1 hk (fun hne => absurd ho hne) hf h.registers.2.2.2.2.1
  rcases readFrame_cases s with ⟨k, hd, hr⟩ | ⟨f, k, hd, _, hr⟩ | ⟨f, k, hd, _, hr⟩ <;> rw [hd] at hcur <;> rw [hr]
  · exact failWith_Inv (hset none k (fun x hx => by cases hx) hcur) hb (by simp [Status.raisedBy, ho]) (by simp) (by simp)
  · exact failWith_Inv (hset (some f) k (fun x hx => by cases hx; exact (decodeFrame_some hd).1) hcur) hb
      (by simp [Status.raisedBy, ho]) (by simp) (by simp)
  · exact readReport_Inv (hset (some f) k (fun x hx => by cases hx; exact (decodeFrame_some hd).1) hcur) hb ho

theorem loadFrame_Inv {s : State} {r : Request} {sys unit : Nat} (h : s.Inv) (ho : s.opRun = 2#2) (hs : sys ≤ s.cfg.idMax)
    (hu : unit ≤ s.cfg.idMax) :
    (loadFrame r sys unit (headerBits s.cfg.idBits s.cfg.protocolId sys unit (r.code s.cfg)) s).Inv := by
  refine ⟨h.legal, ⟨h.memory.1, ?_, h.memory.2.2⟩,
    ⟨⟨?_, fun _ => ?_⟩, h.registers.2.1, h.registers.2.2.1, ?_, h.registers.2.2.2.2.1, h.registers.2.2.2.2.2⟩,
    h.handshake, h.reason, h.outputs⟩
  · simp only [loadFrame_bits, headerBits_length, loadFrame_cfg, Config.bitCap]; omega
  · simp only [loadFrame_cur, h.registers.1.2 (by simp [ho])]; omega
  · simp only [loadFrame_cur, h.registers.1.2 (by simp [ho])]
  · intro f hf
    simp only [loadFrame_frame, Option.mem_def, Option.some.injEq] at hf
    subst hf
    simp [Frame.acceptable, hs, hu, commandOf_code h.legal]

theorem emitTrain_Inv {s : State} (h : s.Inv) (hb : s.busy = true) (ho : s.opRun = 2#2) : (emitTrain s).Inv := by
  have hrun := Inv_running h hb
  refine ⟨h.legal, emitTrain_wf h.legal h.memory, h.registers, h.handshake, h.reason, ?_⟩
  refine ⟨h.outputs.1, ?_, h.outputs.2.2.1, h.outputs.2.2.2.1, ?_, h.outputs.2.2.2.2.2⟩
  · intro hd; simp [hrun.1] at hd
  · intro hne; exact absurd ho hne

theorem readFrame_cur (k : Nat) (s : State) : readFrame { s with cur := k } = readFrame s := rfl

theorem pulseDecode_cap {s : State} {b : Bits} (h : s.Inv) (hb : pulseDecode s.cfg s.pin s.pinOvf = some b) : b.length ≤ s.cfg.bitCap := by
  have := pulseDecode_length hb
  have := h.memory.1.1
  simp only [Config.pinCap, Config.maxRawLength, Config.bitCap] at *
  omega

theorem setPulseIdx_Inv {s : State} (i : Nat) (h : s.Inv) : State.Inv { s with pulseIdx := i } :=
  ⟨h.legal, h.memory, h.registers, h.handshake, h.reason, h.outputs⟩

theorem readTrain_Inv {s : State} (h : s.Inv) (hb : s.busy = true) (ho : s.opRun = 1#2) : (readTrain s).Inv := by
  rcases readTrain_cases s with ⟨_, he⟩ | ⟨b, hd, he⟩ <;> rw [he]
  · exact failEmpty_Inv (setPulseIdx_Inv _ h) hb ho
  · rw [← readFrame_cur 0]
    refine readFrame_Inv ?_ hb ho
    exact setBits_Inv (s := s) h (pulseDecode_cap h hd) (by simp) (by simp) h.registers.2.2.2.1 h.registers.2.2.2.2.1

theorem setAddresses_Inv {s : State} {a u : Option Nat} (h : s.Inv) (ha : ∀ x ∈ a, x ≤ s.cfg.idMax) (hu : ∀ x ∈ u, x ≤ s.cfg.idMax) :
    State.Inv { s with aSys := a, aUnit := u } :=
  ⟨h.legal, h.memory, ⟨h.registers.1, ha, hu, h.registers.2.2.2⟩, h.handshake, h.reason, h.outputs⟩

theorem failArgument_Inv {s : State} {r : Reason} (h : s.Inv) (hb : s.busy = true) (ho : s.opRun = 2#2) (hr : r ≠ .none) : (failArgument r s).Inv := by
  have hrun := Inv_running h hb
  have : State.Inv { s with reason := r } := ⟨h.legal, h.memory, h.registers, h.handshake, ⟨by simp [hrun.1], by simp [hb]⟩, h.outputs⟩
  exact failWith_Inv this hb (by simp [Status.raisedBy, ho]) (by simp) (fun _ => hr)

theorem runEncode_Inv {s : State} (h : s.Inv) (hb : s.busy = true) (ho : s.opRun = 2#2) : (runEncode s).Inv := by
  have hS : ∀ x ∈ s.aSys, x ≤ s.cfg.idMax := h.registers.2.1
  have hU : ∀ x ∈ s.aUnit, x ≤ s.cfg.idMax := h.registers.2.2.1
  have hp : ∀ {o : Option Text} {a}, parseAddress s.cfg o = some a → ∀ x ∈ some a, x ≤ s.cfg.idMax := by
    intro o a h x hx; cases hx; exact parseAddress_le h
  rcases runEncode_cases s with ⟨_, he⟩ | ⟨_, _, he⟩ | ⟨sys, h1, _, he⟩ | ⟨sys, h1, _, _, he⟩ | ⟨sys, unit, h1, h2, _, he⟩ |
    ⟨sys, unit, r, h1, h2, _, he⟩ <;> rw [he]
  · exact failArgument_Inv h hb ho (by simp)
  · exact failArgument_Inv h hb ho (by simp)
  · exact failArgument_Inv (setAddresses_Inv h (hp h1) hU) hb ho (by simp)
  · exact failArgument_Inv (setAddresses_Inv h (hp h1) hU) hb ho (by simp)
  · exact failArgument_Inv (setAddresses_Inv h (hp h1) (hp h2)) hb ho (by simp)
  · rw [sendRequest_eq]
    refine deliverRequest_Inv (emitTrain_Inv (loadFrame_Inv (setAddresses_Inv h (hp h1) (hp h2)) ho ?_ ?_) hb ho) hb ho
    · exact parseAddress_le h1
    · exact parseAddress_le h2

theorem runOperation_Inv {s : State} (h : s.Inv) (hb : s.busy = true) : (runOperation s).Inv := by
  rcases runOperation_eq s with ⟨ho, he⟩ | ⟨ho, he⟩ | ⟨ho, he⟩ | ⟨ho, he⟩ <;> rw [he]
  · unfold runValidate
    split
    · exact succeed_Inv h hb ho
    · exact failWith_Inv h hb (by simp [Status.raisedBy, ho]) (by simp) (by simp)
  · unfold runDecode
    split
    · exact readTrain_Inv h hb ho
    · exact failWith_Inv h hb (by simp [Status.raisedBy, ho]) (by simp) (by simp)
  · exact runEncode_Inv h hb ho
  · exact failWith_Inv h hb (by simp [Status.raisedBy, ho]) (by simp) (by simp)


theorem readGivenFrame_Inv {s : State} {b : Bits} (h : s.Inv) (hb : s.busy = true) (ho : s.opRun = 1#2) : (readGivenFrame b s).Inv := by
  rcases readGivenFrame_cases b s with ⟨hl, he⟩ | ⟨_, he⟩ <;> rw [he]
  · rw [← readFrame_cur 0]
    refine readFrame_Inv ?_ hb ho
    exact setBits_Inv (s := s) h hl (by simp) (by simp) h.registers.2.2.2.1 h.registers.2.2.2.2.1
  · exact failEmpty_Inv h hb ho

theorem buildRequest_Inv {r : Request} {sys unit : Nat} {s : State} (h : s.Inv) (ho : s.opRun = 2#2) (hs : sys ≤ s.cfg.idMax)
    (hu : unit ≤ s.cfg.idMax) : (buildRequest r sys unit s).Inv := by
  rw [buildRequest_eq]; exact loadFrame_Inv h ho hs hu

theorem setFreeIdx_Inv {s : State} (k : Nat) (h : s.Inv) : State.Inv { s with freeIdx := k } :=
  ⟨h.legal, h.memory, h.registers, h.handshake, h.reason, h.outputs⟩

/-- A builder keeps the invariant on every operand: a free Address is an Address (R18, log 33). -/
theorem buildGiven_Inv {r : Request} {sys unit : Nat} {s : State} (h : s.Inv) (ho : s.opRun = 2#2) : (buildGiven r sys unit s).Inv := by
  rcases buildGiven_cases r sys unit s with ⟨hs, hu, he⟩ | ⟨_, he⟩ <;> rw [he]
  · exact buildRequest_Inv h ho hs hu
  · exact buildRequest_Inv (setFreeIdx_Inv _ h) ho (builtAddress_le _ _ s) (builtAddress_le _ _ s)

theorem readPair_Inv {d0 d1 : Nat} {s t : State} (h : s.Inv) (hb : s.busy = true) (ho : s.opRun = 1#2) (he : readPair d0 d1 s = .next t) : t.Inv := by
  rcases readPair_next he with rfl | ⟨b, _, hl, rfl⟩
  · exact failEmpty_Inv h hb ho
  · exact setBits_Inv (s := s) h (by simp; omega) (by have := h.registers.1.1; simp; omega) (by simp [ho]) h.registers.2.2.2.1 h.registers.2.2.2.2.1

theorem writePulses_Inv {p : Train} {n : Nat} {s t : State} (h : s.Inv) (hb : s.busy = true) (ho : s.opRun = 2#2) (hp : trainFits s.cfg p)
    (he : writePulses p n s = .next t) : t.Inv := by
  obtain ⟨hl, rfl⟩ := writePulses_next he
  have hrun := Inv_running h hb
  exact ⟨h.legal, appendPulses_wf h.memory hl hp, h.registers, h.handshake, h.reason,
    h.outputs.1, by simp [hrun.1], h.outputs.2.2.1, h.outputs.2.2.2.1, by simp [ho], h.outputs.2.2.2.2.2⟩

theorem recordReason_Inv {r : Reason} {s t : State} (h : s.Inv) (he : recordReason r s = .next t) : t.Inv := by
  rcases recordReason_next he with ⟨_, rfl⟩ | ⟨hb, rfl⟩
  · exact h
  · have hrun := Inv_running h hb
    exact ⟨h.legal, h.memory, h.registers, h.handshake, ⟨by simp [hrun.1], by simp [hb]⟩, h.outputs⟩

theorem frameRequest_Inv {n k : Nat} {r : Request} {sys unit : Nat} {s t : State} (h : s.Inv)
    (he : frameRequest n k r sys unit s = .next t) : t.Inv := by
  rcases frameRequest_next he with rfl | ⟨hb, ho, rfl⟩ | ⟨hb, ho, _, rfl⟩
  · exact h
  · exact readGivenFrame_Inv h hb ho
  · exact buildGiven_Inv h ho

theorem frameReport_Inv {n a b x y : Nat} {q : Bool} {s t : State} (h : s.Inv)
    (he : frameReport n a b x y q s = .next t) : t.Inv := by
  rcases frameReport_next he with rfl | ⟨hb, ho, rfl⟩
  · exact h
  · exact readGivenFrame_Inv h hb ho

theorem unlistedFrame_Inv {b : Bits} {s t : State} (h : s.Inv) (he : unlistedFrame b s = .next t) : t.Inv := by
  rcases unlistedFrame_next he with rfl | ⟨hb, ho, rfl⟩
  · exact h
  · exact readGivenFrame_Inv h hb ho

theorem unlistedPair_Inv {d0 d1 : Nat} {s t : State} (h : s.Inv) (he : unlistedPair d0 d1 s = .next t) : t.Inv := by
  rcases unlistedPair_next he with rfl | ⟨hb, ho, h'⟩
  · exact h
  · exact readPair_Inv h hb ho h'

theorem bitSymbol_Inv {b : Bool} {d0 d1 : Nat} {s t : State} (h : s.Inv) (he : bitSymbol b d0 d1 s = .next t) : t.Inv := by
  rcases bitSymbol_next he with rfl | ⟨hb, ho, h'⟩ | ⟨hb, ho, h'⟩
  · exact h
  · exact readPair_Inv h hb ho h'
  · exact writePulses_Inv h hb ho (trainFits_bitToPair h.legal b) h'

theorem trailerSymbol_Inv {d0 d1 : Nat} {s t : State} (h : s.Inv) (he : trailerSymbol d0 d1 s = .next t) : t.Inv := by
  rcases trailerSymbol_next he with rfl | ⟨hb, ho, rfl⟩ | ⟨hb, ho, h'⟩
  · exact h
  · exact failEmpty_Inv h hb ho
  · exact writePulses_Inv h hb ho (trainFits_trailer h.legal) h'

theorem endInFailure_Inv {st : Status} {s t : State} (h : s.Inv) (h1 : st ≠ .ok) (h2 : st ≠ .errArg) (he : endInFailure st s = .next t) : t.Inv := by
  rcases endInFailure_next he with ⟨hb, hr, rfl⟩ | ⟨_, rfl⟩
  · exact failWith_Inv h hb hr h1 (fun h => absurd h h2)
  · exact h

theorem endInSuccess_Inv {s t : State} (h : s.Inv) (he : endInSuccess s = .next t) : t.Inv := by
  rcases endInSuccess_next he with ⟨_, rfl⟩ | ⟨hb, ho, rfl⟩ | ⟨p, hb, ho, _, rfl⟩ | ⟨_, _, _, hb, ho, _, _, _, rfl⟩
  · exact h
  · exact succeed_Inv h hb ho
  · exact deliverReport_Inv h hb ho
  · exact deliverRequest_Inv h hb ho

theorem startOperation_Inv {op : BitVec 2} {run : State → State} {s t : State} (hrun : ∀ u : State, u.Inv → u.busy = true → u.opRun = op → (run u).Inv) (h : s.Inv)
    (he : startOperation op run s = .next t) : t.Inv := by
  rcases startOperation_next he with ⟨ha, rfl⟩ | ⟨_, rfl⟩
  · exact hrun _ (acceptStart_Inv h ha) rfl rfl
  · exact h

theorem writeReqCmd_Inv {c : BitVec 2} {s : State} (h : s.Inv) : (writeReqCmd c s).Inv := by
  unfold writeReqCmd
  split
  · exact h
  · exact ⟨h.legal, h.memory, h.registers, h.handshake, h.reason, h.outputs⟩

end Sys2Proof.Machine
end

