-- ==== Sys2Proof/Laws/PerInstr.lean ====
section
/-! SUPPORT. The statements that are made per row of the table: how many bits its code has (column "encoding" of spec/opcode_table.json). -/

namespace Sys2Proof.Laws.CodeLength

/-- The number of bits of a code: a register's width (R13, R14, R22, R23), a frame's length (R55), or the two durations of a pair. -/
def width (durWidth : Nat) : Code → Nat
  | .hostOp _ => 2
  | .reqCmd _ => 2
  | .frameN18 b => b.length
  | .frameN6 b => b.length
  | .pulsePair _ _ => 2 * durWidth
  | .status _ => 3
  | .reason _ => 3

/-- The number of bits the table gives the row's encoding; a pair's is two duration words (16 bits each in the reference configuration). -/
def tableWidth (durWidth : Nat) : Instr → Nat
  | .opValidate => 2
  | .opDecode => 2
  | .opEncode => 2
  | .opReserved => 2
  | .rcAbsent => 2
  | .rcOn => 2
  | .rcOff => 2
  | .rcQuery => 2
  | .frameOn _ _ => 72
  | .frameOff _ _ => 72
  | .frameStateQuery _ _ => 72
  | .frameStateInform _ _ _ _ _ => 109
  | .frameOnSmall _ _ => 24
  | .frameOffSmall _ _ => 24
  | .frameStateQuerySmall _ _ => 24
  | .frameStateInformSmall _ _ _ _ _ => 37
  | .symBit0 _ _ => 2 * durWidth
  | .symBit1 _ _ => 2 * durWidth
  | .symTrailer _ _ => 2 * durWidth
  | .stIdle => 3
  | .stOk => 3
  | .stInvalid => 3
  | .stNoMatch => 3
  | .stErrArg => 3
  | .stBadOp => 3
  | .stFatalSizing => 3
  | .stFatalAlloc => 3
  | .rsNone => 3
  | .rsSysMissing => 3
  | .rsSysInvalid => 3
  | .rsUnitMissing => 3
  | .rsUnitInvalid => 3
  | .rsCmdMissing => 3

/-- The encoder writes every bit of the row's encoding and no more (R55, R58 to R61). -/
def Statement (i : Instr) : Prop := ∀ durWidth, width durWidth (encode i) = tableWidth durWidth i

theorem opValidate : Statement .opValidate := fun _ => rfl
theorem opDecode : Statement .opDecode := fun _ => rfl
theorem opEncode : Statement .opEncode := fun _ => rfl
theorem opReserved : Statement .opReserved := fun _ => rfl
theorem rcAbsent : Statement .rcAbsent := fun _ => rfl
theorem rcOn : Statement .rcOn := fun _ => rfl
theorem rcOff : Statement .rcOff := fun _ => rfl
theorem rcQuery : Statement .rcQuery := fun _ => rfl
theorem frameOn (sys unit : BitVec 18) :
    Statement (.frameOn sys unit) := fun _ => by
  simp [encode, width, tableWidth, Instr.requestBits]
theorem frameOff (sys unit : BitVec 18) :
    Statement (.frameOff sys unit) := fun _ => by
  simp [encode, width, tableWidth, Instr.requestBits]
theorem frameStateQuery (sys unit : BitVec 18) :
    Statement (.frameStateQuery sys unit) := fun _ => by
  simp [encode, width, tableWidth, Instr.requestBits]
theorem frameStateInform (toSys toUnit sys unit : BitVec 18) (state : Bool) :
    Statement (.frameStateInform toSys toUnit sys unit state) := fun _ => by
  simp [encode, width, tableWidth, Instr.reportBits]
theorem frameOnSmall (sys unit : BitVec 6) :
    Statement (.frameOnSmall sys unit) := fun _ => by
  simp [encode, width, tableWidth, Instr.requestBits]
theorem frameOffSmall (sys unit : BitVec 6) :
    Statement (.frameOffSmall sys unit) := fun _ => by
  simp [encode, width, tableWidth, Instr.requestBits]
theorem frameStateQuerySmall (sys unit : BitVec 6) :
    Statement (.frameStateQuerySmall sys unit) := fun _ => by
  simp [encode, width, tableWidth, Instr.requestBits]
theorem frameStateInformSmall (toSys toUnit sys unit : BitVec 6) (state : Bool) :
    Statement (.frameStateInformSmall toSys toUnit sys unit state) := fun _ => by
  simp [encode, width, tableWidth, Instr.reportBits]
theorem symBit0 (d0 d1 : Nat) : Statement (.symBit0 d0 d1) := fun _ => rfl
theorem symBit1 (d0 d1 : Nat) : Statement (.symBit1 d0 d1) := fun _ => rfl
theorem symTrailer (d0 d1 : Nat) : Statement (.symTrailer d0 d1) := fun _ => rfl
theorem stIdle : Statement .stIdle := fun _ => rfl
theorem stOk : Statement .stOk := fun _ => rfl
theorem stInvalid : Statement .stInvalid := fun _ => rfl
theorem stNoMatch : Statement .stNoMatch := fun _ => rfl
theorem stErrArg : Statement .stErrArg := fun _ => rfl
theorem stBadOp : Statement .stBadOp := fun _ => rfl
theorem stFatalSizing : Statement .stFatalSizing := fun _ => rfl
theorem stFatalAlloc : Statement .stFatalAlloc := fun _ => rfl
theorem rsNone : Statement .rsNone := fun _ => rfl
theorem rsSysMissing : Statement .rsSysMissing := fun _ => rfl
theorem rsSysInvalid : Statement .rsSysInvalid := fun _ => rfl
theorem rsUnitMissing : Statement .rsUnitMissing := fun _ => rfl
theorem rsUnitInvalid : Statement .rsUnitInvalid := fun _ => rfl
theorem rsCmdMissing : Statement .rsCmdMissing := fun _ => rfl

end Sys2Proof.Laws.CodeLength
end

