-- ==== Sys2Proof/Laws/Turn.lean ====
section
/-! SUPPORT. Steps and turns: who moves next, when a step is taken at all, and how a run goes on. -/

namespace Sys2Proof.Machine

/-- Who moves next, in every state (R36, R130, R134). -/
theorem nextTurn_cases (s : State) :
    (∃ k, s.present = some k ∧ nextTurn s = .component k) ∨
    (s.present = none ∧ s.busy = true ∧ ∃ n a rest, s.hold = n + 1 ∧ s.host = a :: rest ∧ nextTurn s = .hostInside n a rest) ∨
    (s.present = none ∧ s.busy = true ∧ (s.hold = 0 ∨ s.host = []) ∧ nextTurn s = .complete) ∨
    (s.present = none ∧ s.busy = false ∧ s.start = true ∧ nextTurn s = .start) ∨
    (s.present = none ∧ s.busy = false ∧ s.start = false ∧ ∃ a rest, s.host = a :: rest ∧ nextTurn s = .host a rest) ∨
    (s.present = none ∧ s.busy = false ∧ s.start = false ∧ s.host = [] ∧ nextTurn s = .idle) := by
  unfold nextTurn
  cases hp : s.present with
  | some k => simp
  | none =>
    cases hb : s.busy with
    | true =>
      cases hh : s.hold with
      | zero => simp
      | succ n => cases hl : s.host <;> simp
    | false =>
      cases hs : s.start with
      | true => simp
      | false => cases hl : s.host <;> simp

/-- A legal instance takes its turn (R6). -/
theorem step_eq {s : State} (h : s.cfg.Legal) : step s = takeTurn (nextTurn s) s := by
  unfold step
  rw [if_pos h]

/-- Only a legal instance steps (R6, U10). -/
theorem step_legal {s t : State} (h : step s = .next t) : s.cfg.Legal := by
  unfold step at h
  split at h
  · assumption
  · cases h

/-- How a code that is no row can answer a next state (R62, R63, R64). -/
theorem runUnlisted_next {k : Code} {s t : State} (h : runUnlisted k s = .next t) :
    t = s ∨ (s.busy = true ∧ s.opRun = 1#2 ∧ ((∃ b, t = readGivenFrame b s) ∨ ∃ d0 d1, readPair d0 d1 s = .next t)) := by
  have frame : ∀ {b}, unlistedFrame b s = .next t → t = s ∨ (s.busy = true ∧ s.opRun = 1#2 ∧
      ((∃ b, t = readGivenFrame b s) ∨ ∃ d0 d1, readPair d0 d1 s = .next t)) := by
    intro b h
    rcases unlistedFrame_next h with h | ⟨hb, ho, h⟩
    · exact .inl h
    · exact .inr ⟨hb, ho, .inl ⟨b, h⟩⟩
  cases k with
  | frameN18 b => exact frame h
  | frameN6 b => exact frame h
  | pulsePair d0 d1 =>
    rcases unlistedPair_next h with h | ⟨hb, ho, h⟩
    · exact .inl h
    · exact .inr ⟨hb, ho, .inr ⟨d0, d1, h⟩⟩
  | hostOp c => cases h
  | reqCmd c => cases h
  | status c => cases h
  | reason c => cases h

/-- A code that is no row keeps the invariant. -/
theorem runUnlisted_Inv {k : Code} {s t : State} (h : s.Inv) (he : runUnlisted k s = .next t) : t.Inv := by
  rcases runUnlisted_next he with rfl | ⟨hb, ho, ⟨b, rfl⟩ | ⟨d0, d1, h'⟩⟩
  · exact h
  · exact readGivenFrame_Inv h hb ho
  · exact readPair_Inv h hb ho h'

/-- A code runs as its row, or as a code that is none (R62 to R64). -/
theorem runCode_cases (k : Code) (s : State) :
    (∃ i, decode s.cfg k = .ok i ∧ runCode k s = exec i s) ∨ (∃ e, decode s.cfg k = .error e ∧ runCode k s = runUnlisted k s) := by
  cases h : decode s.cfg k with
  | ok i => exact .inl ⟨i, rfl, by rw [runCode, h]⟩
  | error e => exact .inr ⟨e, rfl, by rw [runCode, h]⟩

/-- A run goes on from the next state. -/
theorem core_run_succ (M : Host.Core) {s t : M.State} (k : Nat) (h : M.step s = .next t) : M.run (k + 1) s = M.run k t := by
  rw [Host.Core.run, h]

/-- A START that is accepted runs the operation its code names (R107 to R110). -/
theorem exec_hostOp (c : BitVec 2) {s : State} (h : s.acceptsStart = true) :
    exec (decodeHostOp c) s = .next (runOperation (acceptStart c s)) := by
  have hc : c = 0#2 ∨ c = 1#2 ∨ c = 2#2 ∨ c = 3#2 := by
    revert c
    decide
  rcases hc with rfl | rfl | rfl | rfl <;> exact startOperation_accepted h

end Sys2Proof.Machine
end

