-- ==== Sys2Proof/Tests/Slice0.lean ====
section
/-! SUPPORT. The model's own tests: WellFormed refuses ill-formed terms, words written out from the spec decode to their rows, the spec's vectors
(95_test_vectors.md) come out, and every statement's hypotheses are met by a named witness. -/

namespace Sys2Proof.Tests

open Sys2Proof.Machine

/-! ## Helpers -/

/-- Bits from a list of zeros and ones, first bit first. -/
def bits (l : List Nat) : Bits := l.map fun n => n == 1

/-- A string in the character codes of R44. -/
def chars (l : List Char) : Text := l.map fun c => BitVec.ofNat 8 c.toNat

/-- The outcome is a next state with the property. -/
def ends (o : Host.Outcome State Fault Refusal) (p : State → Bool) : Bool :=
  match o with
  | .next t => p t
  | _ => false

/-- The outcome is this refusal. -/
def refusedBy (o : Host.Outcome State Fault Refusal) (r : Refusal) : Bool :=
  match o with
  | .refused x => decide (x = r)
  | _ => false

/-- An instance of the small configuration after reset. -/
def small : State := State.resetWith Config.small

/-- The small configuration with a smaller ID_MAX, so that the range checks can fail (R83). -/
def narrow : Config := { Config.small with idMax := 40 }

/-- The widest addresses R6 allows. -/
def widest : Config := { Config.ref with idBits := 30, idMax := 1073741823 }

/-- A running operation, nothing done yet. -/
def running (c : Config) (op : BitVec 2) : State := { State.resetWith c with busy := true, opRun := op }


/-- The bits of vector D1. -/
def d1Bits : Bits := bits [0, 0, 0, 0, 0, 1, 0, 0, 0, 0, 0, 0, 0, 0, 0, 0, 0, 0, 0, 0, 0, 0, 1, 1, 0, 0, 0, 1, 0, 1, 1, 0, 0, 0, 1, 0, 1]

/-- The train of vector D1, in full (95_test_vectors.md 2.5). -/
def d1Train : Train :=
    [300, 900, 300, 900, 300, 900, 300, 900, 300, 900, 900, 300, 300, 900, 300, 900] ++
    [300, 900, 300, 900, 300, 900, 300, 900, 300, 900, 300, 900, 300, 900, 300, 900] ++
    [300, 900, 300, 900, 300, 900, 300, 900, 300, 900, 300, 900, 900, 300, 900, 300] ++
    [300, 900, 300, 900, 300, 900, 900, 300, 300, 900, 900, 300, 900, 300, 300, 900] ++
    [300, 900, 300, 900, 900, 300, 300, 900, 900, 300, 900, 10200]

/-- The noisy train of 95_test_vectors.md 2.2. -/
def noisyTrain : Train :=
    [282, 838, 301, 966, 212, 818, 337, 824, 293, 949, 814, 329, 254, 809, 222, 911] ++
    [307, 817, 261, 823, 341, 908, 215, 944, 231, 857, 361, 960, 349, 815, 347, 949] ++
    [301, 812, 256, 811, 342, 834, 274, 907, 236, 938, 230, 946, 878, 343, 974, 246] ++
    [226, 948, 346, 963, 248, 895, 824, 340, 382, 816, 944, 215, 958, 252, 327, 974] ++
    [336, 909, 398, 880, 919, 349, 316, 892, 876, 263, 846, 10278]

/-- The train of vector E2, in full. -/
def e2Train : Train :=
    [300, 900, 300, 900, 300, 900, 300, 900, 300, 900, 900, 300, 300, 900, 300, 900] ++
    [300, 900, 900, 300, 300, 900, 900, 300, 900, 300, 300, 900, 300, 900, 300, 900] ++
    [900, 300, 300, 900, 300, 900, 300, 900, 300, 900, 300, 900, 300, 900, 900, 300] ++
    [900, 10200]

/-- Vectors E1 to E3: the request `0a5`, `0ay`. -/
def request (c : BitVec 2) : State :=
  { small with reqSys := some (chars ['0', 'a', '5']), reqUnit := some (chars ['0', 'a', 'y']), reqCmd := c }

/-- D1's train in PIN. -/
def heard : State := { small with pin := d1Train }

/-! ## WellFormed refuses ill-formed terms -/

theorem test_wf_refuses_wide_pair : (Instr.symBit0 300 65536).wf Config.ref = false := by decide
theorem test_wf_refuses_bit1_as_bit0 : (Instr.symBit0 900 300).wf Config.ref = false := by decide
theorem test_wf_refuses_bit0_as_bit1 : (Instr.symBit1 300 900).wf Config.ref = false := by decide
theorem test_wf_refuses_bit_as_trailer : (Instr.symTrailer 900 300).wf Config.ref = false := by decide
theorem test_wf_refuses_foreign_layout :
    (Instr.frameOn 5#18 34#18).wf Config.small = false ∧ (Instr.frameOnSmall 5#6 34#6).wf Config.ref = false := by decide
theorem test_wf_refuses_address_above_max :
    (Instr.frameOffSmall 5#6 41#6).wf narrow = false ∧ (Instr.frameOffSmall 41#6 5#6).wf narrow = false ∧
    (Instr.frameStateInformSmall 0#6 0#6 5#6 41#6 true).wf narrow = false := by decide
theorem test_wf_accepts_band_edges :
    (Instr.symBit0 400 800).wf Config.ref = true ∧ (Instr.symBit1 1000 200).wf Config.ref = true ∧
    (Instr.symTrailer 800 10300).wf Config.ref = true ∧ (Instr.frameOffSmall 5#6 40#6).wf narrow = true := by decide

/-! ## Decoding: words written out from 30_encoding.md -/

/-- R58. -/
theorem test_decode_op :
    decode Config.ref (.hostOp 0b00#2) = .ok .opValidate ∧ decode Config.ref (.hostOp 0b01#2) = .ok .opDecode ∧
    decode Config.ref (.hostOp 0b10#2) = .ok .opEncode ∧ decode Config.ref (.hostOp 0b11#2) = .ok .opReserved := by
  refine ⟨rfl, rfl, rfl, rfl⟩
/-- R59. -/
theorem test_decode_req_cmd :
    decode Config.ref (.reqCmd 0b00#2) = .ok .rcAbsent ∧ decode Config.ref (.reqCmd 0b01#2) = .ok .rcOn ∧
    decode Config.ref (.reqCmd 0b10#2) = .ok .rcOff ∧ decode Config.ref (.reqCmd 0b11#2) = .ok .rcQuery := by
  refine ⟨rfl, rfl, rfl, rfl⟩
/-- R60. -/
theorem test_decode_status :
    (decodeStatus 0b000#3, decodeStatus 0b001#3, decodeStatus 0b010#3, decodeStatus 0b011#3) =
      (.stIdle, .stOk, .stInvalid, .stNoMatch) ∧
    (decodeStatus 0b100#3, decodeStatus 0b101#3, decodeStatus 0b110#3, decodeStatus 0b111#3) =
      (.stErrArg, .stBadOp, .stFatalSizing, .stFatalAlloc) := by decide
/-- R61: codes 6 and 7 are no rows. -/
theorem test_decode_reason :
    decodeReason 0b000#3 = .ok .rsNone ∧ decodeReason 0b001#3 = .ok .rsSysMissing ∧ decodeReason 0b010#3 = .ok .rsSysInvalid ∧
    decodeReason 0b011#3 = .ok .rsUnitMissing ∧ decodeReason 0b100#3 = .ok .rsUnitInvalid ∧
    decodeReason 0b101#3 = .ok .rsCmdMissing ∧ decodeReason 0b110#3 = .error .reservedCode ∧
    decodeReason 0b111#3 = .error .reservedCode := by
  refine ⟨rfl, rfl, rfl, rfl, rfl, rfl, rfl, rfl⟩

/-- R52, S7. -/
theorem test_word_frame_on :
    decodeTableWord 72 0b000000000000000001100100100101000001100110100111000010000000000000000000 = some (.frameOn 149825#18 158146#18) := by
  rfl
/-- R52, the ref builder vector of 95_test_vectors.md 2.3. -/
theorem test_word_frame_off :
    decodeTableWord 72 0b000000000000000001100100100101000001100110100111000010000000000000000001 = some (.frameOff 149825#18 158146#18) := by
  rfl
/-- R52, S6. -/
theorem test_word_frame_state_query :
    decodeTableWord 72 0b000000000000000001000000111011000001000000111100000010000000000000000010 = some (.frameStateQuery 3777#18 3842#18) := by
  rfl
/-- R53, the reference instance of S4. -/
theorem test_word_frame_state_inform :
    decodeTableWord 112 0b0000000000000000010000000000000000000000000000000000000000000000000000111001001001010000011001101001110000101 = some (.frameStateInform 0#18 0#18 149825#18 158146#18 true) := by
  rfl
/-- R52, F2. -/
theorem test_word_frame_on_small :
    decodeTableWord 24 0b000001000101100010000000 = some (.frameOnSmall 5#6 34#6) := by
  rfl
/-- R52, F3. -/
theorem test_word_frame_off_small :
    decodeTableWord 24 0b000001000101100010000001 = some (.frameOffSmall 5#6 34#6) := by
  rfl
/-- R52, F4. -/
theorem test_word_frame_state_query_small :
    decodeTableWord 24 0b000001000101100010000010 = some (.frameStateQuerySmall 5#6 34#6) := by
  rfl
/-- R53, I2. -/
theorem test_word_frame_state_inform_small :
    decodeTableWord 40 0b0000010000000000000000111111110000000 = some (.frameStateInformSmall 0#6 0#6 63#6 0#6 false) := by
  rfl
/-- R47, R48: the first pulse is the low half. -/
theorem test_word_pairs :
    (decodeTableWord 32 (300 + 900 * 65536), decodeTableWord 32 (900 + 300 * 65536), decodeTableWord 32 (900 + 10200 * 65536)) = 
      (some (.symBit0 300 900), some (.symBit1 900 300), some (.symTrailer 900 10200)) := by
  rfl

/-- R56: surplus bits are ignored; F8: command 4; F6: protocol 2; F10: 23 bits; I3: 36 bits. -/
theorem test_decode_frame_edges :
    decode Config.small (.frameN6 (bits [0, 0, 0, 0, 0, 1, 0, 0, 0, 0, 0, 0, 0, 0, 0, 0, 0, 0, 0, 0, 0, 0, 1, 1, 0, 0, 0, 1, 0, 1, 1, 0, 0, 0, 1, 0, 1, 1, 1, 1])) = .ok (.frameStateInformSmall 0#6 0#6 5#6 34#6 true) ∧
    decode Config.small (.frameN6 (bits [0, 0, 0, 0, 0, 1, 0, 0, 0, 0, 0, 0, 0, 0, 0, 0, 0, 0, 0, 0, 0, 1, 0, 0])) = .error .unknownCommand ∧
    decode Config.small (.frameN6 (bits [0, 0, 0, 0, 1, 0, 0, 0, 0, 0, 0, 0, 0, 0, 0, 0, 0, 0, 0, 0, 0, 0, 1, 1])) = .error .otherProtocol ∧
    decode Config.small (.frameN6 (bits [0, 0, 0, 0, 0, 1, 0, 0, 0, 0, 0, 0, 0, 0, 0, 0, 0, 0, 0, 0, 0, 0, 1])) = .error .truncatedFrame ∧
    decode Config.small (.frameN6 (bits [0, 0, 0, 0, 0, 1, 0, 0, 0, 0, 0, 0, 0, 0, 0, 0, 0, 0, 0, 0, 0, 0, 1, 1, 0, 0, 0, 1, 0, 1, 1, 0, 0, 0, 1, 0])) = .error .truncatedFrame := by
  refine ⟨rfl, rfl, rfl, rfl, rfl⟩

/-- R47, R48, R72, R73: (199, 900) and (900, 10301) are no symbols, 65536 does not fit the port. -/
theorem test_decode_pair_edges :
    decode Config.ref (.pulsePair 200 1000) = .ok (.symBit0 200 1000) ∧
    decode Config.ref (.pulsePair 199 900) = .error .notASymbol ∧ decode Config.ref (.pulsePair 900 10301) = .error .notASymbol ∧
    decode Config.ref (.pulsePair 300 65536) = .error .durationTooWide := by
  refine ⟨rfl, rfl, rfl, rfl⟩

/-! ## Component vectors -/

/-- S1, A1 to A21 in the reference configuration. -/
theorem test_parse_vectors :
    parseAddress Config.ref (some (chars ['0', 'a', 'A', 'B', '1'])) = some 149825 ∧
    parseAddress Config.ref (some (chars ['0', 'a', '@', '@', '@'])) = some 262143 ∧
    parseAddress Config.ref (some (chars ['0', 'a', '1', '0', '0', '0'])) = none ∧
    parseAddress Config.ref (some (chars ['0', 'a', '0', '0', '0', '0', '0'])) = some 0 ∧
    parseAddress Config.ref (some (chars ['0', 'a', '1', '2', '3', '4', '5', '6'])) = none ∧
    parseAddress Config.ref (some (chars ['0', 'A', 'A', 'B', '1'])) = none ∧
    parseAddress Config.ref (some (chars ['0', 'a', 'A', 'B', '-', '1'])) = none ∧
    parseAddress Config.ref (some (chars ['0', 'a'])) = none ∧
    parseAddress Config.small (some (chars ['0', 'a', '1', '0'])) = none := by decide

/-- S1. -/
theorem test_format_vectors :
    formatAddress 0 = chars ['0', 'a', '0'] ∧ formatAddress 35 = chars ['0', 'a', 'z'] ∧
    formatAddress 64 = chars ['0', 'a', '1', '0'] ∧ formatAddress 158146 = chars ['0', 'a', 'C', 'D', '2'] ∧
    formatAddress 1073741823 = chars ['0', 'a', '@', '@', '@', '@', '@'] := by decide

/-- R73's table. -/
theorem test_classify_edges :
    [0, 199, 200, 400, 401, 799, 800, 1000, 1001].map (classify Config.ref) =
      [.none, .none, .low, .low, .none, .none, .high, .high, .none] ∧
    [10099, 10100, 10300, 10301, 65535].map (classify Config.ref) = [.none, .footer, .footer, .none, .none] := by decide

/-- P1, P3, P6, P9, P12, P14. -/
theorem test_pulse_decode_vectors :
    pulseDecode Config.small [300, 900, 900, 300, 310, 880, 1000, 200, 900, 10200] false = some (bits [0, 1, 0, 1]) ∧
    pulseDecode Config.small [900, 10200] false = none ∧ pulseDecode Config.small [300, 900, 10200] false = none ∧
    pulseDecode Config.small [300, 300, 900, 10200] false = none ∧
    pulseDecode Config.small [300, 900, 900, 10200, 900, 300, 900, 10200] false = none ∧
    pulseDecode Config.small [400, 800, 1000, 10300] false = some (bits [0]) := by decide

/-- The noise vector of 2.2, and with 799 at index 10. -/
theorem test_pulse_decode_noise :
    pulseDecode Config.small noisyTrain false = some d1Bits ∧ pulseDecode Config.small (noisyTrain.set 10 799) false = none := by
  decide

/-- 2.2. -/
theorem test_pulse_encode_vector :
    pulseEncode Config.small (bits [0, 1, 0, 1]) = [300, 900, 900, 300, 300, 900, 900, 300, 900, 10200] := by decide

/-- 2.3: READ_FIELD. -/
theorem test_read_field_vectors :
    readField (bits [0, 0, 0, 1, 0, 1, 1, 0, 1]) 0 6 = some (5, 6) ∧ readField (bits [0, 0, 0, 1, 0, 1, 1, 0, 1]) 7 6 = none ∧
    readField (bits [0, 0, 0, 1, 0, 1, 1, 0, 1]) 7 2 = some (1, 9) ∧ readField (bits [0, 0, 0, 1, 0, 1, 1, 0, 1]) 9 1 = none := by
  decide

/-- F5, F9, F11. -/
theorem test_decode_frame_vectors :
    decodeFrame Config.small (bits [0, 0, 0, 0, 0, 1, 1, 1, 1, 1, 1, 1, 1, 1, 1, 1, 1, 1, 0, 0, 0, 0, 1, 1, 1]) = (some ⟨1, 63, 63, 3⟩, 24) ∧
    (decodeFrame Config.small (bits [0, 0, 0, 0, 0, 1, 0, 0, 0, 0, 0, 0, 0, 0, 0, 0, 0, 0, 1, 1, 1, 1, 1, 1])).1 = none ∧
    (decodeFrame Config.small []).1 = none := by decide

/-- I1, I3, I6. -/
theorem test_decode_state_inform_vectors :
    decodeStateInform Config.small d1Bits 24 = (some ⟨5, 34, true⟩, 37) ∧
    (decodeStateInform Config.small (d1Bits.take 36) 24).1 = none ∧
    (decodeStateInform Config.small (bits [0, 0, 0, 0, 0, 1, 0, 0, 0, 0, 0, 0, 0, 0, 0, 0, 0, 0, 0, 0, 0, 0, 1, 1, 0, 0, 0, 1, 0, 1, 1, 0, 0, 0, 1, 0, 0, 1, 1, 1]) 24).1 =
      some ⟨5, 34, false⟩ := by decide

/-- V1, V2, V4, V6, V7, V8, V9, and an overflowed PIN. -/
theorem test_validate_vectors :
    [[900, 10200], [300, 900, 10200], [10200], [300, 900, 300, 10200], [900, 10301], [799, 10200],
      [5, 5, 5, 5, 800, 10100]].map (fun p => validate Config.ref p false) = [true, true, false, false, false, false, true] ∧
    validate Config.ref [900, 10200] true = false := by decide

/-! ## One step of every instruction -/

/-- Program 4, steps 2 and 5. -/
theorem test_op_validate :
    ends (exec .opValidate ({ small with pin := [300, 900, 10200] })) (fun t => decide (t.status = .ok ∧ t.done = true)) = true ∧
    ends (exec .opValidate ({ small with pin := [300, 900, 900, 300] })) (fun t => decide (t.status = .invalid)) = true := by
  decide

/-- D1, D10: the 76-pulse trains. -/
theorem test_op_decode :
    ends (exec .opDecode heard) (fun t => decide (t.status = .ok ∧ t.msgSys = chars ['0', 'a', '5'] ∧
      t.msgUnit = chars ['0', 'a', 'y'] ∧ t.msgState = some true ∧ t.cur = 37 ∧ t.pout = [])) = true ∧
    ends (exec .opDecode ({ small with pin := pulseEncode Config.small (bits [0, 0, 0, 0, 0, 1, 0, 0, 0, 0, 0, 1, 0, 0, 0, 0, 0, 0, 0, 0, 0, 0, 1, 1, 0, 0, 0, 1, 0, 1, 1, 0, 0, 0, 1, 0, 1]) }))
      (fun t => decide (t.status = .noMatch ∧ t.msgValid = false)) = true := by decide

/-- E2 with its train in full; E12. -/
theorem test_op_encode :
    ends (exec .opEncode (request 2#2)) (fun t => decide (t.status = .ok ∧ t.pout = e2Train ∧ t.repeatCount = 30#5 ∧
      t.msgState = some false)) = true ∧
    ends (exec .opEncode ({ small with reqSys := some (chars ['0', 'a', '1']), reqUnit := some (chars ['b', 'a', 'd']) }))
      (fun t => decide (t.status = .errArg ∧ t.reason = .unitInvalid ∧ t.pout = [])) = true := by decide

/-- 2.5, the reserved operation. -/
theorem test_op_reserved :
    ends (exec .opReserved heard) (fun t => decide (t.status = .badOp ∧ t.bits = [] ∧ t.done = true ∧ t.pin = d1Train)) = true := by
  decide

/-- R59: each code reaches REQ_CMD; ignored while BUSY (R133). -/
theorem test_rc_rows :
    ends (exec .rcAbsent (request 3#2)) (fun t => decide (t.reqCmd = 0#2)) = true ∧
    ends (exec .rcOn small) (fun t => decide (t.reqCmd = 1#2)) = true ∧ ends (exec .rcOff small) (fun t => decide (t.reqCmd = 2#2)) = true ∧
    ends (exec .rcQuery small) (fun t => decide (t.reqCmd = 3#2)) = true ∧
    ends (exec .rcQuery (running Config.small 2#2)) (fun t => decide (t.reqCmd = 0#2)) = true := by decide

/-- 2.3, the builders, N = 6. -/
theorem test_frame_rows_built_small :
    ends (exec (.frameOnSmall 5#6 34#6) (running Config.small 2#2))
      (fun t => decide (t.bits = bits [0, 0, 0, 0, 0, 1, 0, 0, 0, 1, 0, 1, 1, 0, 0, 0, 1, 0, 0, 0, 0, 0, 0, 0] ∧ t.sizeReq = 24)) = true ∧
    ends (exec (.frameOffSmall 5#6 34#6) (running Config.small 2#2))
      (fun t => decide (t.bits = bits [0, 0, 0, 0, 0, 1, 0, 0, 0, 1, 0, 1, 1, 0, 0, 0, 1, 0, 0, 0, 0, 0, 0, 1])) = true ∧
    ends (exec (.frameStateQuerySmall 5#6 34#6) (running Config.small 2#2))
      (fun t => decide (t.bits = bits [0, 0, 0, 0, 0, 1, 0, 0, 0, 1, 0, 1, 1, 0, 0, 0, 1, 0, 0, 0, 0, 0, 1, 0])) = true := by decide

/-- R88 to R90, N = 18: the bits of S7, of 2.3 and of S6. -/
theorem test_frame_rows_built :
    ends (exec (.frameOn 149825#18 158146#18) (running Config.ref 2#2))
      (fun t => decide (t.bits = bits [0, 0, 0, 0, 0, 0, 0, 0, 0, 0, 0, 0, 0, 0, 0, 0, 0, 1, 1, 0, 0, 1, 0, 0, 1, 0, 0, 1, 0, 1, 0, 0, 0, 0, 0, 1, 1, 0, 0, 1, 1, 0, 1, 0, 0, 1, 1, 1, 0, 0, 0, 0, 1, 0, 0, 0, 0, 0, 0, 0, 0, 0, 0, 0, 0, 0, 0, 0, 0, 0, 0, 0])) = true ∧
    ends (exec (.frameOff 149825#18 158146#18) (running Config.ref 2#2))
      (fun t => decide (t.bits = bits [0, 0, 0, 0, 0, 0, 0, 0, 0, 0, 0, 0, 0, 0, 0, 0, 0, 1, 1, 0, 0, 1, 0, 0, 1, 0, 0, 1, 0, 1, 0, 0, 0, 0, 0, 1, 1, 0, 0, 1, 1, 0, 1, 0, 0, 1, 1, 1, 0, 0, 0, 0, 1, 0, 0, 0, 0, 0, 0, 0, 0, 0, 0, 0, 0, 0, 0, 0, 0, 0, 0, 1])) = true ∧
    ends (exec (.frameStateQuery 3777#18 3842#18) (running Config.ref 2#2))
      (fun t => decide (t.frame = some ⟨1, 3777, 3842, 2⟩)) = true := by decide

/-- S4: both destinations broadcast, and the unit not. -/
theorem test_frame_state_inform_rows :
    ends (exec (.frameStateInform 0#18 0#18 149825#18 158146#18 true) (running Config.ref 1#2))
      (fun t => decide (t.status = .ok ∧ t.msgSys = chars ['0', 'a', 'A', 'B', '1'] ∧
        t.msgUnit = chars ['0', 'a', 'C', 'D', '2'] ∧ t.msgState = some true)) = true ∧
    ends (exec (.frameStateInformSmall 0#6 7#6 5#6 34#6 true) (running Config.small 1#2))
      (fun t => decide (t.status = .noMatch ∧ t.msgValid = false)) = true := by decide

/-- R74, R75, R77. -/
theorem test_symbol_rows :
    ends (exec (.symBit0 280 950) (running Config.ref 1#2)) (fun t => decide (t.bits = [false] ∧ t.pulseIdx = 1)) = true ∧
    ends (exec (.symBit1 1000 200) (running Config.ref 1#2)) (fun t => decide (t.bits = [true])) = true ∧
    ends (exec (.symTrailer 900 10200) (running Config.ref 1#2)) (fun t => decide (t.status = .noMatch)) = true ∧
    ends (exec (.symTrailer 800 10100) (running Config.ref 2#2)) (fun t => decide (t.pout = [900, 10200])) = true := by decide

/-- R112, R116, R121, R122. -/
theorem test_status_rows :
    ends (exec .stInvalid (running Config.ref 0#2)) (fun t => decide (t.status = .invalid ∧ t.done = true)) = true ∧
    ends (exec .stNoMatch (running Config.ref 1#2)) (fun t => decide (t.status = .noMatch ∧ t.reason = .none)) = true ∧
    ends (exec .stBadOp (running Config.ref 3#2)) (fun t => decide (t.status = .badOp)) = true ∧
    ends (exec .stFatalSizing (running Config.ref 2#2)) (fun t => decide (t.status = .fatalSizing ∧ t.fatal = true)) = true ∧
    ends (exec .stOk (running Config.ref 0#2)) (fun t => decide (t.status = .ok ∧ t.msgValid = false)) = true ∧
    ends (exec .stIdle (running Config.ref 0#2)) (fun t => decide (t.status = .idle ∧ t.busy = true)) = true ∧
    refusedBy (exec .stFatalAlloc small) .neverProduced = true ∧
    refusedBy (exec .stInvalid (running Config.ref 2#2)) .outcomeOfAnotherOperation = true := by decide

/-- R115, R122. -/
theorem test_reason_rows :
    ends (exec .rsSysMissing (running Config.ref 2#2)) (fun t => decide (t.reason = .sysMissing ∧ t.busy = true)) = true ∧
    ends (exec .stErrArg ({ running Config.ref 2#2 with reason := .unitInvalid, repeatCount := 7#5 }))
      (fun t => decide (t.status = .errArg ∧ t.reason = .unitInvalid ∧ t.repeatCount = 0#5)) = true ∧
    refusedBy (exec .stErrArg (running Config.ref 2#2)) .outcomeNotReached = true := by decide

/-! ## Steps -/

/-- R36, R14: START runs the code in OP in one step. -/
theorem test_step_answers_start :
    ends (step ({ heard with op := 1#2, start := true }))
      (fun t => decide (t.status = .ok ∧ t.start = false ∧ t.busy = false ∧ t.done = true)) = true := by decide

/-- R124: START while FATAL = 1 changes nothing but the strobe. -/
theorem test_step_ignores_start_while_fatal :
    ends (step ({ heard with op := 1#2, start := true, fatal := true, status := .fatalSizing, done := true }))
      (fun t => decide (t.status = .fatalSizing ∧ t.busy = false ∧ t.fatal = true)) = true := by decide

/-- R129: a reset while the operation runs. -/
theorem test_step_reset_inside :
    ends (step ({ running Config.small 1#2 with hold := 1, host := [.reset], pin := [300] }))
      (fun t => decide (t = small)) = true := by decide

/-- R32, R135, U14. -/
theorem test_step_refusals :
    refusedBy (step ({ small with host := [.read (.poutWord 0)] })) .readPastLength = true ∧
    refusedBy (step ({ running Config.small 1#2 with hold := 1, host := [.read .status] })) .readWhileBusy = true ∧
    refusedBy (step ({ small with host := [.pinPush 65536] })) .durationTooWide = true ∧
    refusedBy (step (State.resetWith ({ Config.small with idBits := 1 }))) .illegalConfiguration = true := by decide

/-- From reset, each kind of outcome word runs as the next instruction: 4 is ST_ERR_ARG, 5 is ST_BAD_OP. -/
theorem test_fetch_outcomes :
    ends (step (State.reset.withFetchWord 8 4)) (fun t => decide (t.status = .errArg ∧ t.reason = .sysMissing ∧ t.done = true)) = true ∧
    ends (step (State.reset.withFetchWord 8 5)) (fun t => decide (t.status = .badOp)) = true := by decide

/-- R62, R84, R63: what is no row ends a decode in ST_NOMATCH and is passed over elsewhere; REASON code 6 is never produced (U6). -/
theorem test_unlisted_codes :
    ends (step ({ running Config.small 1#2 with present := some (.frameN6 (headerBits 6 2 0 0 3)) }))
      (fun t => decide (t.status = .noMatch ∧ t.frame = none ∧ t.reason = .none)) = true ∧
    ends (step ({ running Config.small 1#2 with present := some (.frameN6 (headerBits 6 1 0 0 4)) }))
      (fun t => decide (t.status = .noMatch)) = true ∧
    ends (step ({ running Config.small 1#2 with present := some (.frameN6 (d1Bits.take 36)) }))
      (fun t => decide (t.status = .noMatch ∧ t.frame = some ⟨1, 0, 0, 3⟩ ∧ t.payload = none)) = true ∧
    ends (step ({ running Config.small 1#2 with present := some (.pulsePair 300 300), bits := [true] }))
      (fun t => decide (t.status = .noMatch ∧ t.bits = [])) = true ∧
    ends (step ({ running Config.small 0#2 with present := some (.pulsePair 300 300) }))
      (fun t => decide (t = running Config.small 0#2)) = true ∧
    refusedBy (step ({ running Config.small 2#2 with present := some (.pulsePair 300 300) })) .noSymbol = true ∧
    refusedBy (step ({ running Config.small 2#2 with present := some (.reason 6#3) })) .neverProduced = true := by decide

/-- R25: the pattern is 22 characters, `^0a[0-9a-zA-Z_@]` and a count of 1 to 5. -/
theorem test_metadata :
    addressPattern.length = 22 ∧ metaMinRawLength Config.ref = 146 ∧ metaMaxRawLength Config.ref = 362 ∧
    metaMinRawLength Config.small = 50 ∧ metaMaxRawLength Config.small = 122 := by decide

/-- The words of the table, placed and fetched from reset. -/
theorem test_fetch_op : ends (step (State.reset.withFetchWord 8 3)) (fun t => decide (t.status = .badOp)) = true := by decide
theorem test_fetch_status :
    ends (step (State.reset.withFetchWord 8 6)) (fun t => decide (t.status = .fatalSizing ∧ t.fatal = true)) = true := by decide
theorem test_fetch_frame :
    ends (step (State.reset.withFetchWord 72 0b000000000000000001100100100101000001100110100111000010000000000000000000))
      (fun t => decide (t.frame = some ⟨1, 149825, 158146, 0⟩ ∧ t.present = none)) = true := by decide
theorem test_fetch_report_small :
    ends (step (State.reset.withFetchWord 40 0b0000010000000000000000110001011000101))
      (fun t => decide (t.status = .ok ∧ t.payload = some ⟨5, 34, true⟩)) = true := by decide
/-- F6: a frame word of protocol 2 is no row; it is placed inside DECODE and ends in ST_NOMATCH (R62, R84). -/
theorem test_fetch_foreign_frame :
    ends (step (State.reset.withFetchWord 24 0b000010000000000000000011)) (fun t => decide (t.status = .noMatch ∧ t.frame = none)) = true := by
  decide
theorem test_fetch_pair :
    ends (step (State.reset.withFetchWord 32 (900 + 300 * 65536))) (fun t => decide (t.bits = [true])) = true := by decide

/-! ## Witnesses: states and operands that meet each statement's hypotheses, at the edges of their ranges -/

/-- The narrowest addresses R6 allows. -/
def tiny : Config := { Config.ref with idBits := 2, idMax := 3 }

/-- D1 heard and a decode started. -/
def started : State := { heard with op := 1#2, start := true }

/-- A state after a fatal end (R116). -/
def fatalState : State := { small with opRun := 2#2, status := .fatalSizing, done := true, fatal := true }

theorem witness_ResetMeetsTheInvariant : widest.Legal ∧ tiny.Legal ∧ narrow.Legal := by decide

theorem started_inv : started.Inv := ⟨by decide, by decide, by decide, by decide, by decide, by decide⟩
theorem fatalState_inv : fatalState.Inv := ⟨by decide, by decide, by decide, by decide, by decide, by decide⟩
theorem witness_EveryStepKeepsTheInvariant : started.Inv ∧ ends (step started) (fun t => t.done) = true :=
  ⟨started_inv, by decide⟩

theorem witness_NoStepChangesTheConfiguration : ends (step State.reset) (fun t => decide (t.cfg = Config.ref)) = true := by decide

theorem witness_FatalIsClearedByResetAlone :
    fatalState.fatal = true ∧
    nextTurn ({ fatalState with busy := true, hold := 1, host := [.reset] }) = .hostInside 0 .reset [] ∧
    ends (step ({ fatalState with host := [.reset, .pinClear] })) (fun t => decide (t.fatal = false ∧ t.host = [.pinClear])) = true := by
  decide

theorem witness_AnIdleBlockDoesNothing :
    State.reset.cfg.Legal ∧ State.reset.present = none ∧ State.reset.busy = false ∧ State.reset.start = false ∧ State.reset.host = [] ∧
      ends (step State.reset) (fun t => decide (t = State.reset)) = true := by decide

theorem witness_AStepRunsTheDecodedRow :
    (small.cfg.Legal ∧ decode small.cfg (.status 7#3) = .ok .stFatalAlloc ∧
      decode small.cfg (.frameN6 d1Bits) = .ok (.frameStateInformSmall 0#6 0#6 5#6 34#6 true)) ∧
    (started.cfg.Legal ∧ started.present = none ∧ started.busy = false ∧ started.start = true ∧ started.hold = 0) ∧
    (fatalState.cfg.Legal ∧ fatalState.present = none ∧ fatalState.busy = false ∧ fatalState.fatal = true) ∧
    ends (step ({ small with host := [.writeReqCmd 3#2, .pinClear] })) (fun t => decide (t.reqCmd = 3#2 ∧ t.host = [.pinClear])) = true ∧
    decode small.cfg (.pulsePair 300 300) = .error .notASymbol ∧ decode small.cfg (.reason 7#3) = .error .reservedCode ∧
    ends (step ({ small with host := [.raiseStart 1, .reset] })) (fun t => decide (t.start = true ∧ t.hold = 1)) = true ∧
    ends (step ({ started with hold := 1, host := [.pinClear] })) (fun t => decide (t.busy = true ∧ t.start = false)) = true ∧
    ends (step ({ running Config.small 0#2 with hold := 1, host := [.pinClear] })) (fun t => decide (t.host = [] ∧ t.busy = true)) = true ∧
    ends (step ({ running Config.small 3#2 with host := [.pinClear] })) (fun t => decide (t.status = .badOp ∧ t.host = [.pinClear])) = true := by
  refine ⟨⟨by decide, rfl, rfl⟩, by decide, by decide, by decide, rfl, rfl, by decide, by decide, by decide, by decide⟩

/-- An operation with two host actions inside it, the push at the edge of the port, and one behind it. -/
def startedWithTwo : State := { started with hold := 2, host := [.writeReqCmd 1#2, .pinPush 65535, .pinClear] }

theorem witness_ActionsInsideAnOperationChangeNothing :
    startedWithTwo.cfg.Legal ∧ startedWithTwo.present = none ∧ startedWithTwo.acceptsStart = true ∧ startedWithTwo.start = true ∧
    startedWithTwo.host = [.writeReqCmd 1#2, .pinPush 65535] ++ [.pinClear] ∧ startedWithTwo.hold = 2 ∧
    (∀ a ∈ [HostAction.writeReqCmd 1#2, .pinPush 65535], a ≠ .reset ∧ (∀ r, a ≠ .read r) ∧
      ∀ d, a = .pinPush d → d < 2 ^ startedWithTwo.cfg.durWidth) := by
  refine ⟨by decide, rfl, rfl, rfl, rfl, rfl, ?_⟩
  intro a ha
  simp only [List.mem_cons, List.not_mem_nil, or_false] at ha
  rcases ha with rfl | rfl
  · exact ⟨nofun, nofun, nofun⟩
  · refine ⟨nofun, nofun, fun d h => ?_⟩
    cases h
    decide

theorem witness_NoRowChangesTheInputs :
    ends (exec .rcOn small) (fun t => decide (t.reqCmd = 1#2 ∧ t.pin = small.pin)) = true ∧
    ends (exec .opDecode heard) (fun t => decide (t.pin = heard.pin ∧ t.reqCmd = heard.reqCmd)) = true := by decide

theorem witness_DecodeOfEncodeIsTheRow :
    (Instr.symBit0 200 1000).wf Config.ref = true ∧ (Instr.symBit1 800 400).wf Config.ref = true ∧
    (Instr.symTrailer 1000 10100).wf Config.ref = true ∧ (Instr.frameOn 262143#18 0#18).wf Config.ref = true ∧
    (Instr.frameStateInform 0#18 262143#18 0#18 262143#18 false).wf Config.ref = true ∧
    (Instr.frameStateQuerySmall 63#6 0#6).wf Config.small = true ∧
    (Instr.frameStateInformSmall 63#6 0#6 63#6 0#6 true).wf Config.small = true := by decide

theorem witness_EncodeOfDecodeIsTheCode :
    decode Config.small (.frameN6 (d1Bits ++ bits [1, 0, 1])) = .ok (.frameStateInformSmall 0#6 0#6 5#6 34#6 true) ∧
    decode Config.ref (.frameN18 (headerBits 18 1 262143 0 2 ++ [true])) = .ok (.frameStateQuery 262143#18 0#18) ∧
    decode Config.ref (.pulsePair 400 800) = .ok (.symBit0 400 800) ∧ decode Config.ref (.reason 5#3) = .ok .rsCmdMissing := by
  refine ⟨rfl, rfl, rfl, rfl⟩

theorem witness_DigitMapsAreInverse :
    digitValue (digitChar 63) = some 63 ∧ digitValue 0x40#8 = some 63 ∧ digitValue 0x30#8 = some 0 := by decide

theorem witness_ParseOfFormatIsTheAddress :
    parseAddress Config.ref (some (formatAddress Config.ref.idMax)) = some Config.ref.idMax ∧
    parseAddress widest (some (formatAddress widest.idMax)) = some widest.idMax ∧
    parseAddress Config.ref (some (formatAddress 0)) = some 0 := by decide

theorem witness_FormatIsCanonical :
    (formatAddress 0).length = 3 ∧ (formatAddress widest.idMax).length = 7 ∧ (formatAddress 64)[2]? = some 0x31#8 := by decide

/-- R70: `0a0`, `0a0AB1`, `0aAB1`. -/
theorem witness_EchoEqualsCanonicalStringsOnly :
    parseAddress Config.ref (some (chars ['0', 'a', '0'])) = some 0 ∧
    parseAddress Config.ref (some (chars ['0', 'a', '0', 'A', 'B', '1'])) = some 149825 ∧
    parseAddress Config.ref (some (chars ['0', 'a', 'A', 'B', '1'])) = some 149825 ∧
    formatAddress 149825 = chars ['0', 'a', 'A', 'B', '1'] := by decide

theorem witness_ClassesAreTheClosedBands :
    Config.ref.Legal ∧ classify Config.ref 200 = .low ∧ classify Config.ref 1000 = .high ∧ classify Config.ref 10100 = .footer := by decide

theorem witness_PulseDecodeOfEncodeIsTheBits :
    Config.small.Legal ∧ [true] ≠ [] ∧ pulseDecode Config.small (pulseEncode Config.small [true]) false = some [true] ∧
    pulseDecode Config.small [880, 310, 900, 10200] false = some [true] ∧
    pulseEncode Config.small [true] ≠ [880, 310, 900, 10200] := by decide

/-- Sixty bits fill POUT of the small configuration. -/
theorem witness_EncodedTrainsFitTheBuffer :
    (List.replicate 60 true).length ≤ Config.small.bitCap ∧
    (pulseEncode Config.small (List.replicate 60 true)).length = Config.small.poutCap := by decide

theorem witness_ReadFieldReadsAtTheCursor :
    readField ([false] ++ [true] ++ []) 1 1 = some (1, 2) ∧ ([] : Bits).length < 1 ∧ readField ([false] ++ []) 1 1 = none := by decide

theorem witness_DecodeFrameOfBuildIsTheFrame :
    widest.Legal ∧ buildFor tiny .query 3 0 = some (headerBits 2 1 3 0 2) ∧
    decodeFrame tiny (headerBits 2 1 3 0 2) = (some ⟨1, 3, 0, 2⟩, 8) := by decide

theorem witness_DecodersConstructAcceptableFramesOnly :
    decodeFrame narrow (headerBits 6 1 40 40 3) = (some ⟨1, 40, 40, 3⟩, 24) ∧
    decodeStateInform narrow (informBits 6 1 0 0 3 40 40 true) 24 = (some ⟨40, 40, true⟩, 37) ∧
    (decodeFrame narrow (headerBits 6 1 41 40 3)).1 = none := by decide

theorem witness_SurplusBitsAreIgnored :
    4 * Config.small.idBits ≤ (d1Bits.take 24).length ∧ 6 * Config.small.idBits + 1 ≤ d1Bits.length ∧
    decodeFrame Config.small (d1Bits.take 24 ++ [true]) = decodeFrame Config.small (d1Bits.take 24) := by decide

theorem witness_ValidateLooksAtTheLastTwoPulses :
    validate Config.ref ([] ++ [800, 10300]) false = true ∧ ([900] : Train).length < 2 ∧ validate Config.ref [900] false = false := by
  decide

theorem witness_RejectedTrainsDoNotDecode :
    validate Config.small [300, 900, 900, 10301] false = false ∧ validate Config.small d1Train true = false := by decide

theorem witness_acceptsStart :
    heard.acceptsStart = true ∧ (request 2#2).acceptsStart = true ∧ State.reset.acceptsStart = true ∧
    ({ heard with pinOvf := true } : State).acceptsStart = true := by decide

theorem witness_OpValidateWritesTheVerdict :
    ends (exec .opValidate heard) (fun t => decide (t.status = .ok)) = true ∧
    ends (exec .opValidate ({ heard with pinOvf := true })) (fun t => decide (t.status = .invalid)) = true := by decide

theorem witness_OpDecodeGivesDecodeIncoming :
    decodeIncoming Config.small d1Train false = some ⟨chars ['0', 'a', '5'], chars ['0', 'a', 'y'], some true⟩ ∧
    decodeIncoming Config.small e2Train false = none := by decide

/-- The three depths: no bits, a frame that is not accepted, a report. -/
theorem witness_OpDecodeLeavesTheDecodedRegisters :
    pulseDecode Config.small [900, 10200] false = none ∧
    ends (exec .opDecode ({ small with pin := e2Train })) (fun t => decide (t.frame = some ⟨1, 5, 34, 1⟩ ∧ t.payload = none ∧ t.cur = 24)) = true ∧
    ends (exec .opDecode heard) (fun t => decide (t.payload = some ⟨5, 34, true⟩ ∧ t.cur = 37)) = true := by decide

theorem witness_OpEncodeGivesEncodeOutgoing :
    encodeOutgoing Config.small none none 1#2 = .argError .sysMissing ∧
    encodeOutgoing Config.small (request 2#2).reqSys (request 2#2).reqUnit 2#2 =
      .sent ⟨e2Train, 30, ⟨chars ['0', 'a', '5'], chars ['0', 'a', 'y'], some false⟩⟩ := by decide

/-- E6 to E10. -/
theorem witness_EncodeReportsTheFirstDefect :
    ends (exec .opEncode small) (fun t => decide (t.reason = .sysMissing)) = true ∧
    ends (exec .opEncode ({ small with reqSys := some [], reqCmd := 1#2 })) (fun t => decide (t.reason = .sysInvalid)) = true ∧
    ends (exec .opEncode ({ request 1#2 with reqUnit := none })) (fun t => decide (t.reason = .unitMissing ∧ t.aSys = some 5)) = true ∧
    ends (exec .opEncode ({ request 1#2 with reqUnit := some (chars ['0', 'a', '1', '0']) }))
      (fun t => decide (t.reason = .unitInvalid)) = true ∧
    ends (exec .opEncode (request 0#2)) (fun t => decide (t.reason = .cmdMissing ∧ t.aUnit = some 34)) = true := by decide

theorem witness_EncodeOfAGoodRequestIsSent :
    (request 3#2).acceptsStart = true ∧ parseAddress Config.small (request 3#2).reqSys = some 5 ∧
    parseAddress Config.small (request 3#2).reqUnit = some 34 ∧ requestOf 1#2 = some .on ∧ requestOf 2#2 = some .off ∧
    requestOf 3#2 = some .query := by decide

theorem witness_StartIsIgnoredWhileBusyOrFatal :
    (running Config.small 1#2).busy = true ∧ fatalState.fatal = true ∧ fatalState.busy = false ∧
    ends (exec (decodeHostOp 3#2) fatalState) (fun t => decide (t = fatalState)) = true := by decide

/-- The same request before and after another operation. -/
theorem witness_OutcomeDependsOnTheInputsAlone :
    let s := ({ heard with status := .invalid, done := true, bits := [true], repeatCount := 30#5 } : State)
    s ≠ heard ∧ s.acceptsStart = true ∧ heard.acceptsStart = true ∧ s.cfg = heard.cfg ∧ s.pin = heard.pin ∧
      s.pinOvf = heard.pinOvf ∧ s.reqSys = heard.reqSys ∧ s.reqUnit = heard.reqUnit ∧ s.reqCmd = heard.reqCmd := by decide

theorem witness_RequestsAreNotDecodableAsReports :
    Config.small.Legal ∧ encodeOutgoing Config.small (some (chars ['0', 'a', '0'])) (some (chars ['0', 'a', '0'])) 1#2 =
      .sent ⟨pulseEncode Config.small (headerBits 6 1 0 0 0), 30, ⟨chars ['0', 'a', '0'], chars ['0', 'a', '0'], some true⟩⟩ := by decide

theorem witness_ReportsAreDecodedExactlyWhenBroadcast :
    Config.small.Legal ∧ Config.small.broadcast ≤ 63 ∧
    (decodeIncoming Config.small (pulseEncode Config.small (informBits 6 1 0 0 3 63 0 false ++ [true])) false).isSome = true ∧
    decodeIncoming Config.small (pulseEncode Config.small (informBits 6 1 63 0 3 63 63 true)) false = none ∧
    decodeIncoming Config.small (pulseEncode Config.small (informBits 6 1 0 63 3 63 63 true)) false = none := by decide

theorem witness_RequestCodesAreWrittenWhileIdle : small.busy = false ∧ (running Config.small 2#2).busy = true := by decide

theorem witness_RequestFramesAreBuiltInsideEncode :
    let s := running Config.ref 2#2
    s.busy = true ∧ s.opRun = 2#2 ∧ s.cfg.TableLayout 18 ∧ (262143#18).toNat ≤ s.cfg.idMax ∧
      ends (exec (.frameOff 262143#18 0#18) s) (fun t => decide (t.frame = some ⟨1, 262143, 0, 1⟩ ∧ t.sizeReq = 72)) = true ∧
      ({ Config.ref with idMax := 262142 } : Config).TableLayout 18 ∧ 262142 < (262143#18).toNat := by decide

theorem witness_SmallRequestFramesAreBuiltInsideEncode :
    let s := running Config.small 2#2
    s.busy = true ∧ s.opRun = 2#2 ∧ s.cfg.TableLayout 6 ∧ (63#6).toNat ≤ s.cfg.idMax ∧
      ends (exec (.frameStateQuerySmall 63#6 0#6) s) (fun t => decide (t.frame = some ⟨1, 63, 0, 2⟩ ∧ t.sizeReq = 24)) = true := by decide

/-- R87, R91: an operand above ID_MAX is built all the same, 4*N bits; the other operand, the protocol and the command stand. -/
theorem test_build_above_max :
    narrow.Legal ∧ narrow.TableLayout 6 ∧ narrow.idMax < (41#6).toNat ∧
    ends (exec (.frameOffSmall 41#6 40#6) (running narrow 2#2)) (fun t => decide (t.sizeReq = 24 ∧ t.bits.length = 24 ∧ t.freeIdx = 2 ∧
      t.bits.take 6 = bits [0, 0, 0, 0, 0, 1] ∧ t.bits.drop 12 = bits [1, 0, 1, 0, 0, 0, 0, 0, 0, 0, 0, 1] ∧
      t.frame.map Frame.toUnit = some 40)) = true := by decide

theorem witness_RequestFramesReadInsideDecodeAreNoMatch :
    (let s := running Config.ref 1#2
     s.cfg.Legal ∧ s.busy = true ∧ s.opRun = 1#2 ∧ s.cfg.TableLayout 18 ∧
      ends (exec (.frameOn 262143#18 0#18) s) (fun t => decide (t.status = .noMatch ∧ t.cur = 72)) = true) ∧
    (let s := running Config.small 1#2
     s.cfg.Legal ∧ s.busy = true ∧ s.opRun = 1#2 ∧ s.cfg.TableLayout 6 ∧
      ends (exec (.frameOffSmall 0#6 63#6) s) (fun t => decide (t.status = .noMatch ∧ t.cur = 24)) = true) ∧
    decode Config.ref (.frameN18 [true]) = .error .truncatedFrame ∧
    decode Config.small (.frameN6 (List.replicate 61 true)) = .error .otherProtocol ∧
    ends (step ({ running Config.small 1#2 with present := some (.frameN6 (List.replicate 61 true)) }))
      (fun t => decide (t.status = .noMatch ∧ t.bits = [])) = true ∧
    ends (step ({ running Config.small 1#2 with present := some (.frameN6 (List.replicate 60 true)) }))
      (fun t => decide (t.status = .noMatch ∧ t.bits.length = 60 ∧ t.frame = none)) = true ∧
    ends (exec (.frameOnSmall 40#6 41#6) (running narrow 1#2)) (fun t => decide (t.status = .noMatch ∧ t.frame = none ∧ t.pulseIdx = 24)) =
      true ∧
    ({ Config.ref with idMax := 262142 } : Config).Legal ∧
    ends (exec (.frameOff 262143#18 0#18) (running ({ Config.ref with idMax := 262142 }) 1#2)) (fun t => decide (t.frame = none)) = true := by
  refine ⟨by decide, by decide, rfl, rfl, by decide, by decide, by decide, by decide, by decide⟩

theorem witness_ReportFramesReadInsideDecode :
    (let s := running Config.ref 1#2
     s.cfg.Legal ∧ s.busy = true ∧ s.opRun = 1#2 ∧ s.cfg.TableLayout 18 ∧
      ends (exec (.frameStateInform 0#18 262143#18 0#18 0#18 true) s) (fun t => decide (t.status = .noMatch ∧ t.cur = 72)) = true) ∧
    (let s := running Config.small 1#2
     s.cfg.Legal ∧ s.busy = true ∧ s.opRun = 1#2 ∧ s.cfg.TableLayout 6 ∧
      ends (exec (.frameStateInformSmall 0#6 0#6 63#6 0#6 false) s) (fun t => decide (t.status = .ok ∧ t.cur = 37)) = true) ∧
    (let s := running narrow 1#2
     s.cfg.Legal ∧ s.busy = true ∧ s.opRun = 1#2 ∧ s.cfg.TableLayout 6 ∧
      ends (exec (.frameStateInformSmall 0#6 0#6 40#6 40#6 true) s) (fun t => decide (t.status = .ok)) = true ∧
      ends (exec (.frameStateInformSmall 0#6 0#6 40#6 41#6 true) s)
        (fun t => decide (t.status = .noMatch ∧ t.frame = some ⟨1, 0, 0, 3⟩ ∧ t.payload = none)) = true ∧
      ends (exec (.frameStateInformSmall 41#6 0#6 5#6 5#6 true) s) (fun t => decide (t.status = .noMatch ∧ t.frame = none)) = true) := by
  refine ⟨by decide, by decide, by decide, rfl, rfl, by decide, by decide, by decide, by decide⟩

theorem witness_FrameRowsOutsideTheirPath :
    (running Config.ref 2#2).busy = true ∧ (running Config.ref 0#2).opRun = 0#2 ∧ (running Config.ref 3#2).opRun = 3#2 ∧
    refusedBy (exec (.frameStateInform 0#18 0#18 1#18 1#18 true) (running Config.ref 2#2)) .noBuilder = true ∧
    ends (exec (.frameOn 1#18 2#18) (running Config.ref 3#2)) (fun t => decide (t = running Config.ref 3#2)) = true ∧
    ¬ Config.small.TableLayout 18 ∧ ¬ Config.ref.TableLayout 6 ∧
    refusedBy (exec (.frameOff 1#18 2#18) (running Config.small 2#2)) .foreignFrame = true ∧
    refusedBy (runUnlisted (.frameN6 []) (running Config.small 2#2)) .noBuilder = true ∧
    refusedBy (runUnlisted (.pulsePair 65535 0) (running Config.small 2#2)) .noSymbol = true ∧
    refusedBy (runUnlisted (.pulsePair 0 65536) small) .durationTooWide = true ∧
    ends (runUnlisted (.pulsePair 0 65535) small) (fun t => decide (t = small)) = true := by decide

/-- The edges of the bands, and BITS full. -/
theorem witness_SymbolsAreReadInsideDecode :
    (Instr.symBit0 400 800).wf Config.small = true ∧ (Instr.symBit1 1000 200).wf Config.small = true ∧
    (Instr.symTrailer 800 10300).wf Config.small = true ∧ ({ running Config.small 1#2 with bits := [true] } : State).bits ≠ [] ∧
    ends (exec (.symBit1 1000 200) ({ running Config.small 1#2 with bits := List.replicate 59 true }))
      (fun t => decide (t.bits.length = 60)) = true ∧
    ends (exec (.symBit1 1000 200) ({ running Config.small 1#2 with bits := List.replicate 60 true })) (fun _ => true) = false := by decide

/-- POUT with two places left, and with one. -/
theorem witness_SymbolsAreWrittenInsideEncode :
    ({ running Config.small 2#2 with pout := List.replicate 120 300 } : State).pout.length + 2 ≤ Config.small.poutCap ∧
    ends (exec (.symTrailer 0 0) ({ running Config.small 2#2 with pout := List.replicate 120 300 }))
      (fun t => decide (t.pout.length = 122)) = true ∧
    Config.small.poutCap < (List.replicate 121 300).length + 2 ∧
    ends (exec (.symTrailer 0 0) ({ running Config.small 2#2 with pout := List.replicate 121 300 })) (fun _ => true) = false := by decide

theorem witness_BadPairsEndInNoMatch :
    (running Config.small 1#2).busy = true ∧ (running Config.small 1#2).opRun = 1#2 ∧ pairToBit Config.small 199 900 = none ∧
    pairToBit Config.small 300 1001 = none ∧ isTrailer Config.small 900 10099 = false ∧ (running Config.small 1#2).bits = [] ∧
    isTrailer Config.small 900 10200 = true ∧ Config.small.Legal ∧ decode Config.small (.pulsePair 300 1001) = .error .notASymbol := by
  refine ⟨by decide, by decide, by decide, by decide, by decide, by decide, by decide, by decide, rfl⟩

theorem witness_FailureRowsEndTheOperation :
    Status.invalid.raisedBy (running Config.small 0#2).opRun = true ∧ Status.noMatch.raisedBy (running Config.small 1#2).opRun = true ∧
    Status.errArg.raisedBy (running Config.small 2#2).opRun = true ∧ Status.badOp.raisedBy (running Config.small 3#2).opRun = true ∧
    Status.fatalSizing.raisedBy (running Config.small 2#2).opRun = true ∧
    ends (exec .stErrArg ({ running Config.small 2#2 with reason := .cmdMissing }))
      (fun t => decide (t.status = .errArg ∧ t.reason = .cmdMissing)) = true := by decide

theorem witness_SuccessRowWritesTheOutputs :
    ends (exec .stOk ({ running Config.small 1#2 with payload := some ⟨63, 0, false⟩ }))
      (fun t => decide (t.msgSys = chars ['0', 'a', '@'] ∧ t.msgState = some false)) = true ∧
    ends (exec .stOk ({ running Config.small 2#2 with aSys := some 0, aUnit := some 63, reqCmd := 3#2 }))
      (fun t => decide (t.msgUnit = chars ['0', 'a', '@'] ∧ t.msgState = none ∧ t.repeatCount = 30#5)) = true ∧
    ends (exec .stOk (running Config.small 0#2)) (fun t => decide (t.status = .ok)) = true := by decide

theorem witness_OutcomesOfOtherOperationsAreRefused :
    Status.ok.raisedBy (running Config.small 3#2).opRun = false ∧ Status.invalid.raisedBy (running Config.small 1#2).opRun = false ∧
    refusedBy (exec .stOk (running Config.small 3#2)) .outcomeOfAnotherOperation = true ∧
    refusedBy (exec .stErrArg (running Config.small 0#2)) .outcomeOfAnotherOperation = true ∧
    (running Config.small 1#2).payload = none ∧ refusedBy (exec .stOk (running Config.small 1#2)) .outcomeNotReached = true ∧
    requestOf (running Config.small 2#2).reqCmd = none ∧
    refusedBy (exec .stOk ({ running Config.small 2#2 with aSys := some 1, aUnit := some 2 })) .outcomeNotReached = true ∧
    refusedBy (exec .stOk ({ running Config.small 2#2 with aSys := some 1, reqCmd := 1#2 })) .outcomeNotReached = true ∧
    (running Config.small 2#2).reason = .none ∧ refusedBy (exec .stErrArg (running Config.small 2#2)) .outcomeNotReached = true := by decide

theorem witness_ReasonsAreRecordedAndReported :
    (running Config.small 2#2).busy = true ∧ (running Config.small 2#2).opRun = 2#2 ∧
    ends (exec .rsCmdMissing (running Config.small 2#2)) (fun t => decide (t.reason = .cmdMissing ∧ t.done = false)) = true := by decide

theorem witness_ComponentRowsDoNothingWhileIdle :
    small.busy = false ∧ Instr.stOk ∉ [Instr.opValidate, .opDecode, .opEncode, .opReserved, .rcAbsent, .rcOn, .rcOff, .rcQuery, .stFatalAlloc] ∧
    ends (exec .stOk small) (fun t => decide (t = small)) = true := by decide

/-- PIN of the smallest configuration holds 42 pulses: 42 fit, 43 overflow. -/
theorem witness_PushingATrainIsLoadingIt :
    (State.resetWith tiny).busy = false ∧ (loadTrain (List.replicate 42 5) (State.resetWith tiny)).pinOvf = false ∧
    (loadTrain (List.replicate 43 5) (State.resetWith tiny)).pinOvf = true ∧
    (loadTrain (List.replicate 43 5) (State.resetWith tiny)).pin.length = 42 := by decide

theorem witness_HostActionsAreIgnoredWhileBusy :
    (running Config.small 1#2).busy = true ∧ HostAction.pinClear ≠ .reset ∧
    ends (hostAct .pinClear (running Config.small 1#2)) (fun t => decide (t = running Config.small 1#2)) = true ∧
    ends (hostAct (.raiseStart 0) (running Config.small 1#2)) (fun t => decide (t.start = false)) = true := by decide

/-- PIN of the smallest configuration one pulse below PIN_CAP, and at it. -/
theorem witness_HostWritesReachTheirRegisterAlone :
    small.busy = false ∧ ends (hostAct (.writeReqSys (some [])) small) (fun t => decide (t.reqSys = some [] ∧ t.reqUnit = none)) = true ∧
    ends (hostAct (.raiseStart 2) fatalState) (fun t => decide (t.start = true ∧ t.fatal = true)) = true ∧
    ends (hostAct .pinClear ({ heard with pinOvf := true })) (fun t => decide (t.pin = [] ∧ t.pinOvf = false)) = true ∧
    ends (hostAct (.pinPush 65535) ({ State.resetWith tiny with pin := List.replicate 41 5 })) (fun t => decide (t.pin.length = 42 ∧ t.pinOvf = false)) = true ∧
    ends (hostAct (.pinPush 0) ({ State.resetWith tiny with pin := List.replicate 42 5 })) (fun t => decide (t.pin.length = 42 ∧ t.pinOvf = true)) = true ∧
    refusedBy (hostAct (.pinPush 65536) small) .durationTooWide = true := by
  refine ⟨by decide, by decide, by decide, by decide, by decide, by decide, by decide⟩

theorem witness_ReadsAreDefinedWhereTheSpecDefinesThem :
    ends (hostAct (.read .status) small) (fun t => decide (t = small)) = true ∧
    hostRead (.poutWord 1) ({ small with pout := [300, 900] }) = .ok (.number 900) ∧
    hostRead (.poutWord 2) ({ small with pout := [300, 900] }) = .error .readPastLength ∧
    hostRead .msgState small = .error .readOfInvalid ∧ hostRead .status (running Config.small 1#2) = .error .readWhileBusy ∧
    small.busy = false ∧ hostRead (.msgSysChar 0) ({ small with msgSys := chars ['0'] }) = .ok (.number 0x30) ∧
    hostRead (.msgUnitChar 1) ({ small with msgUnit := chars ['0'] }) = .error .readPastLength ∧
    hostRead .status fatalState = .ok (.number 6) := by
  refine ⟨by decide, rfl, rfl, rfl, rfl, rfl, rfl, rfl, rfl⟩

end Sys2Proof.Tests
end

section
/-! PROOFS, family 00_scope.md: reset and the invariant, the refusal of an illegal configuration, the idle block. -/

namespace Sys2Proof.Machine

/-! ## Reset meets the invariant -/

/-- The reset state of a legal instance meets the invariant: its buffers are empty, its guarded registers hold nothing, and no operation has
run (R29). -/
theorem resetWith_Inv {c : Config} (h : c.Legal) : (State.resetWith c).Inv where
  legal := h
  memory := by simp [Memory.wf, trainFits, State.resetWith]
  registers := by simp [State.RegistersWf, State.resetWith]
  handshake := by simp [State.HandshakeWf, State.resetWith]
  reason := by simp [State.ReasonWf, State.resetWith]
  outputs := by simp [State.OutputsWf, State.resetWith]

theorem ref_legal : Config.ref.Legal := by decide

theorem small_legal : Config.small.Legal := by decide

/-- Settles O2: the two named configurations are legal, and `State.reset` is the reset state of one of them. -/
theorem resetMeetsTheInvariant : Obligations.ResetMeetsTheInvariant :=
  ⟨ref_legal, small_legal, resetWith_Inv ref_legal, fun _ => resetWith_Inv⟩

/-! ## Why each shared operation can refuse -/

/-- An idle block refuses nothing: it passes over what is put to it (R4). -/
theorem whileBusy_refused {s : State} {o : Host.Outcome State Fault Refusal} {x : Refusal} (h : whileBusy s o = .refused x) :
    o = .refused x := by
  cases hb : s.busy with
  | false => rw [whileBusy_idle hb] at h; cases h
  | true => rwa [whileBusy_busy hb] at h

theorem startOperation_ne_refused (op : BitVec 2) (run : State → State) (s : State) (x : Refusal) :
    startOperation op run s ≠ .refused x := by
  cases ha : s.acceptsStart with
  | false => simp [startOperation_ignored ha]
  | true => simp [startOperation_accepted ha]

theorem readPair_ne_refused (d0 d1 : Nat) (s : State) (x : Refusal) : readPair d0 d1 s ≠ .refused x := by
  rcases readPair_cases d0 d1 s with ⟨_, he⟩ | ⟨_, _, _, he⟩ | ⟨_, _, _, he⟩ <;> simp [he]

theorem readTrailer_ne_refused (d0 d1 : Nat) (s : State) (x : Refusal) : readTrailer d0 d1 s ≠ .refused x := by
  unfold readTrailer
  split <;> simp

theorem writePulses_ne_refused (p : Train) (n : Nat) (s : State) (x : Refusal) : writePulses p n s ≠ .refused x := by
  rcases writePulses_cases p n s with ⟨_, he⟩ | ⟨_, he⟩ <;> simp [he]

/-- A symbol is read, written, passed over, or a fault; it is never refused (R74, R77). -/
theorem bitSymbol_ne_refused (b : Bool) (d0 d1 : Nat) (s : State) (x : Refusal) : bitSymbol b d0 d1 s ≠ .refused x := by
  intro h
  replace h := whileBusy_refused h
  rcases opRun_cases s with ho | ho | ho | ho <;> rw [ho] at h
  · cases h
  · exact readPair_ne_refused _ _ _ _ h
  · exact writePulses_ne_refused _ _ _ _ h
  · cases h

theorem trailerSymbol_ne_refused (d0 d1 : Nat) (s : State) (x : Refusal) : trailerSymbol d0 d1 s ≠ .refused x := by
  intro h
  replace h := whileBusy_refused h
  rcases opRun_cases s with ho | ho | ho | ho <;> rw [ho] at h
  · cases h
  · exact readTrailer_ne_refused _ _ _ _ h
  · exact writePulses_ne_refused _ _ _ _ h
  · cases h

/-- A request frame is refused by an ENCODE of an instance with another layout alone (R50). -/
theorem frameRequest_refused {n k : Nat} {r : Request} {sys unit : Nat} {s : State} {x : Refusal}
    (h : frameRequest n k r sys unit s = .refused x) : x = .foreignFrame := by
  replace h := whileBusy_refused h
  rcases opRun_cases s with ho | ho | ho | ho <;> rw [ho] at h
  · cases h
  · cases h
  · change (if _ then _ else _) = _ at h
    split at h <;> cases h
    rfl
  · cases h

/-- A report frame is refused by ENCODE alone, which has no builder for it (R92). -/
theorem frameReport_refused {n toSys toUnit sys unit : Nat} {state : Bool} {s : State} {x : Refusal}
    (h : frameReport n toSys toUnit sys unit state s = .refused x) : x = .noBuilder := by
  replace h := whileBusy_refused h
  rcases opRun_cases s with ho | ho | ho | ho <;> rw [ho] at h <;> cases h
  rfl

theorem unlistedFrame_refused {b : Bits} {s : State} {x : Refusal} (h : unlistedFrame b s = .refused x) : x = .noBuilder := by
  replace h := whileBusy_refused h
  rcases opRun_cases s with ho | ho | ho | ho <;> rw [ho] at h <;> cases h
  rfl

/-- A pair that is no symbol is refused when it does not fit the port (U14), and by ENCODE, which writes symbols only (R77). -/
theorem unlistedPair_refused {d0 d1 : Nat} {s : State} {x : Refusal} (h : unlistedPair d0 d1 s = .refused x) :
    x = .durationTooWide ∨ x = .noSymbol := by
  unfold unlistedPair at h
  split at h
  · have h := whileBusy_refused h
    rcases opRun_cases s with ho | ho | ho | ho <;> rw [ho] at h
    · cases h
    · exact absurd h (readPair_ne_refused _ _ _ _)
    · cases h; exact .inr rfl
    · cases h
  · cases h; exact .inl rfl

/-- A failure outcome is refused by an operation that does not raise it alone (R112). -/
theorem endInFailure_refused {st : Status} {s : State} {x : Refusal} (h : endInFailure st s = .refused x) :
    x = .outcomeOfAnotherOperation := by
  replace h := whileBusy_refused h
  split at h <;> cases h
  rfl

theorem execStErrArg_refused {s : State} {x : Refusal} (h : execStErrArg s = .refused x) :
    x = .outcomeNotReached ∨ x = .outcomeOfAnotherOperation := by
  replace h := whileBusy_refused h
  split at h
  · cases h; exact .inl rfl
  · exact .inr (endInFailure_refused h)

/-- ST_OK is refused where its registers hold nothing yet, and by the reserved operation (R101, R105, R112). -/
theorem endInSuccess_refused {s : State} {x : Refusal} (h : endInSuccess s = .refused x) :
    x = .outcomeNotReached ∨ x = .outcomeOfAnotherOperation := by
  replace h := whileBusy_refused h
  rcases opRun_cases s with ho | ho | ho | ho <;> rw [ho] at h
  · cases h
  · change (match s.payload with | some p => _ | none => _) = _ at h
    split at h <;> cases h
    exact .inl rfl
  · change (match s.aSys, s.aUnit, requestOf s.reqCmd with | some _, some _, some _ => _ | _, _, _ => _) = _ at h
    split at h <;> cases h
    exact .inl rfl
  · cases h; exact .inr rfl

theorem recordReason_ne_refused (r : Reason) (s : State) (x : Refusal) : recordReason r s ≠ .refused x := by
  intro h
  cases whileBusy_refused h

/-! ## No move of a legal instance is refused as an illegal configuration -/

/-- No row is refused for the configuration (R6): each row's refusals are those of the operation it shares. -/
theorem exec_ne_illegal (i : Instr) (s : State) : exec i s ≠ .refused .illegalConfiguration := by
  intro h
  cases i with
  | opValidate | opDecode | opEncode | opReserved => exact startOperation_ne_refused _ _ _ _ h
  | rcAbsent | rcOn | rcOff | rcQuery => cases h
  | frameOn | frameOff | frameStateQuery | frameOnSmall | frameOffSmall | frameStateQuerySmall => cases frameRequest_refused h
  | frameStateInform | frameStateInformSmall => cases frameReport_refused h
  | symBit0 | symBit1 => exact bitSymbol_ne_refused _ _ _ _ _ h
  | symTrailer => exact trailerSymbol_ne_refused _ _ _ _ h
  | stIdle => cases whileBusy_refused h
  | stOk => rcases endInSuccess_refused h with hx | hx <;> cases hx
  | stErrArg => rcases execStErrArg_refused h with hx | hx <;> cases hx
  | stInvalid | stNoMatch | stBadOp | stFatalSizing => cases endInFailure_refused h
  | stFatalAlloc => cases h
  | rsNone | rsSysMissing | rsSysInvalid | rsUnitMissing | rsUnitInvalid | rsCmdMissing => exact recordReason_ne_refused _ _ _ h

theorem runUnlisted_ne_illegal (k : Code) (s : State) : runUnlisted k s ≠ .refused .illegalConfiguration := by
  intro h
  cases k with
  | frameN18 b | frameN6 b => cases unlistedFrame_refused h
  | pulsePair d0 d1 => rcases unlistedPair_refused h with hx | hx <;> cases hx
  | hostOp c | reqCmd c | status c | reason c => cases h

theorem runCode_ne_illegal (k : Code) (s : State) : runCode k s ≠ .refused .illegalConfiguration := by
  rcases runCode_cases k s with ⟨i, _, he⟩ | ⟨_, _, he⟩ <;> rw [he]
  · exact exec_ne_illegal i s
  · exact runUnlisted_ne_illegal k s

theorem readIdle_error {s : State} {v : Except Refusal HostValue} {x : Refusal} (h : readIdle s v = .error x) :
    x = .readWhileBusy ∨ v = .error x := by
  unfold readIdle at h
  split at h
  · cases h; exact .inl rfl
  · exact .inr h

theorem readElement_error {α : Type} {l : List α} {i : Nat} {f : α → HostValue} {x : Refusal} (h : readElement l i f = .error x) :
    x = .readPastLength := by
  unfold readElement at h
  split at h <;> cases h
  rfl

/-- A read is refused for BUSY, for an index past the length, or for MSG_STATE while it is not valid (R32, R135, U4). -/
theorem hostRead_error {r : HostRegister} {s : State} {x : Refusal} (h : hostRead r s = .error x) :
    x = .readWhileBusy ∨ x = .readPastLength ∨ x = .readOfInvalid := by
  cases r with
  | pinWord | poutWord | msgSysChar | msgUnitChar => exact (readIdle_error h).imp_right fun hx => .inl (readElement_error hx)
  | pinLen | pinOvf | reqSys | reqUnit | reqCmd | op | start | poutLen | repeatCount | msgSys | msgUnit | msgStateValid | msgValid |
      status | reason => exact (readIdle_error h).imp_right nofun
  | msgState =>
    refine (readIdle_error h).imp_right fun hx => .inr ?_
    split at hx <;> cases hx
    rfl
  | busy | done | fatal | metaProtocolName | metaDevType | metaHwType | metaMinRawLength | metaMaxRawLength | metaRepeatCount |
      metaPatternSys | metaPatternUnit => cases h

theorem hostAct_ne_illegal (a : HostAction) (s : State) : hostAct a s ≠ .refused .illegalConfiguration := by
  intro h
  cases a with
  | pinClear | writeReqSys | writeReqUnit | writeOp | raiseStart | reset => cases h
  | pinPush d =>
    change (if _ then _ else _) = _ at h
    split at h <;> cases h
  | writeReqCmd c => exact exec_ne_illegal _ _ h
  | read r =>
    change (match hostRead r s with | .ok _ => _ | .error _ => _) = _ at h
    split at h <;> cases h
    rename_i he
    rcases hostRead_error he with hx | hx | hx <;> cases hx

theorem answerStart_ne_illegal (s : State) : answerStart s ≠ .refused .illegalConfiguration := by
  unfold answerStart
  split
  · exact runCode_ne_illegal _ _
  · simp

theorem takeTurn_ne_illegal (t : Turn) (s : State) : takeTurn t s ≠ .refused .illegalConfiguration := by
  cases t with
  | component k => exact runCode_ne_illegal _ _
  | hostInside n a rest => exact hostAct_ne_illegal _ _
  | complete => exact nofun
  | start => exact answerStart_ne_illegal s
  | host a rest => exact hostAct_ne_illegal _ _
  | idle => exact nofun

/-- Settles O5: `step` refuses an illegal configuration before any move, and no move of a legal instance is refused for that reason. -/
theorem onlyIllegalConfigurationsAreRefusedAsSuch : Obligations.OnlyIllegalConfigurationsAreRefusedAsSuch := by
  intro s
  constructor
  · intro h hl
    rw [step_eq hl] at h
    exact takeTurn_ne_illegal _ _ h
  · intro h
    simp [step, h]

/-! ## The idle block -/

/-- Settles O55: each of these rows works on the running operation alone, so an idle block passes it over. -/
theorem componentRowsDoNothingWhileIdle : Obligations.ComponentRowsDoNothingWhileIdle := by
  intro s i hb hi
  cases i with
  | opValidate | opDecode | opEncode | opReserved | rcAbsent | rcOn | rcOff | rcQuery | stFatalAlloc => simp at hi
  | _ => exact whileBusy_idle hb _

end Sys2Proof.Machine
end

section
/-! PROOFS, family 10_state.md: the invariant under every step, FATAL, the frame of a row, what the decoders construct, the working registers of
the host operations, the decoded row of a step, the request rows and bad pairs inside an operation, the host's writes and reads. -/

namespace Sys2Proof.Machine

/-! ## Every step keeps the invariant -/

/-- Of what the host and the schedule own (R10 (a), logs 2 to 4), the invariant speaks of PIN's form alone. -/
theorem setInputs_Inv {s : State} {pin : Train} {ovf st : Bool} {rs ru : Option Text} {rc op : BitVec 2} {hold fi : Nat}
    {host : List HostAction} {pr : Option Code} (h : s.Inv) (hpin : pin.length ≤ s.cfg.pinCap ∧ trainFits s.cfg pin) :
    State.Inv { s with
      pin := pin, pinOvf := ovf, reqSys := rs, reqUnit := ru, reqCmd := rc, op := op, start := st, hold := hold, host := host,
      present := pr, freeIdx := fi } :=
  ⟨h.legal, ⟨hpin, h.memory.2⟩, h.registers, h.handshake, h.reason, h.outputs⟩

/-- An accepted START and the whole operation behind it keep the invariant (R107 to R110). -/
theorem startOperation_runOperation_Inv {op : BitVec 2} {run : State → State} {s t : State}
    (hrun : ∀ u : State, u.opRun = op → runOperation u = run u) (h : s.Inv) (he : startOperation op run s = .next t) : t.Inv :=
  startOperation_Inv (fun u hu hb ho => hrun u ho ▸ runOperation_Inv hu hb) h he

/-- ST_IDLE inside an operation writes what the accepted START wrote (R27, R60). -/
theorem execStIdle_Inv {s t : State} (h : s.Inv) (he : execStIdle s = .next t) : t.Inv := by
  rcases whileBusy_next he with ⟨hb, he⟩ | ⟨_, rfl⟩
  · obtain ⟨_, _, hidle, _⟩ := Inv_running h hb
    cases he
    rwa [← hidle]
  · exact h

theorem execStErrArg_Inv {s t : State} (h : s.Inv) (he : execStErrArg s = .next t) : t.Inv := by
  rcases execStErrArg_next he with ⟨_, rfl⟩ | ⟨hb, ho, hr, rfl⟩
  · exact h
  · exact failWith_Inv h hb (by simp [Status.raisedBy, ho]) (by simp) fun _ => hr

/-- Every row of the table keeps the invariant: each by the operation it shares. -/
theorem exec_Inv {i : Instr} {s t : State} (h : s.Inv) (he : exec i s = .next t) : t.Inv := by
  cases i with
  | opValidate | opDecode | opEncode | opReserved =>
    exact startOperation_runOperation_Inv (fun u ho => by simp [runOperation, ho]) h he
  | rcAbsent | rcOn | rcOff | rcQuery => cases he; exact writeReqCmd_Inv h
  | frameOn | frameOff | frameStateQuery | frameOnSmall | frameOffSmall | frameStateQuerySmall => exact frameRequest_Inv h he
  | frameStateInform | frameStateInformSmall => exact frameReport_Inv h he
  | symBit0 | symBit1 => exact bitSymbol_Inv h he
  | symTrailer => exact trailerSymbol_Inv h he
  | stIdle => exact execStIdle_Inv h he
  | stOk => exact endInSuccess_Inv h he
  | stErrArg => exact execStErrArg_Inv h he
  | stInvalid | stNoMatch | stBadOp | stFatalSizing => exact endInFailure_Inv h (by simp) (by simp) he
  | stFatalAlloc => cases he
  | rsNone | rsSysMissing | rsSysInvalid | rsUnitMissing | rsUnitInvalid | rsCmdMissing => exact recordReason_Inv h he

theorem runCode_Inv {k : Code} {s t : State} (h : s.Inv) (he : runCode k s = .next t) : t.Inv := by
  rcases runCode_cases k s with ⟨i, _, hc⟩ | ⟨_, _, hc⟩ <;> rw [hc] at he
  · exact exec_Inv h he
  · exact runUnlisted_Inv h he

/-- A host write that BUSY = 1 makes the block ignore (R133, R134): what holds of the state before and of the written state holds after. -/
theorem unlessBusy {P : State → Prop} {s u : State} (hs : P s) (hu : P u) : P (if s.busy then s else u) := by
  split
  · exact hs
  · exact hu

theorem pinPush_Inv {d : Nat} {s : State} (h : s.Inv) (hd : d < 2 ^ s.cfg.durWidth) : (pinPush d s).Inv := by
  refine unlessBusy h ?_
  split
  · rename_i hl
    exact setInputs_Inv h ⟨by simpa using hl, trainFits_append h.memory.1.2 (by simpa [trainFits] using hd)⟩
  · exact setInputs_Inv h h.memory.1

/-- A read that answers a next state answers the same state (R36). -/
theorem hostAct_read_next {r : HostRegister} {s t : State} (h : hostAct (.read r) s = .next t) : t = s := by
  change (match hostRead r s with | .ok _ => _ | .error _ => _) = _ at h
  split at h <;> cases h
  rfl

/-- Every host action keeps the invariant; a reset gives the reset state of the same configuration (R128). -/
theorem hostAct_Inv {a : HostAction} {s t : State} (h : s.Inv) (he : hostAct a s = .next t) : t.Inv := by
  cases a with
  | pinClear => cases he; exact unlessBusy h (setInputs_Inv h (by simp [trainFits]))
  | pinPush d =>
    change (if _ then _ else _) = _ at he
    split at he <;> cases he
    rename_i hd
    exact pinPush_Inv h hd
  | writeReqSys v | writeReqUnit v | writeOp c | raiseStart k => cases he; exact unlessBusy h (setInputs_Inv h h.memory.1)
  | writeReqCmd c => exact exec_Inv h he
  | reset => cases he; exact setInputs_Inv (resetWith_Inv h.legal) (resetWith_Inv h.legal).memory.1
  | read r => exact hostAct_read_next he ▸ h

theorem answerStart_Inv {s t : State} (h : s.Inv) (hb : s.busy = false) (he : answerStart s = .next t) : t.Inv := by
  unfold answerStart at he
  split at he
  · exact runCode_Inv (setInputs_Inv h h.memory.1) he
  · rename_i hf
    cases he
    have hf : s.fatal = false := by simpa using fun hx => hf (.inr (.inr hx))
    exact acceptStart_Inv (setInputs_Inv h h.memory.1) (acceptsStart_iff.mpr ⟨hb, hf⟩)

/-- Settles O3: whoever moves next, the move keeps the invariant. -/
theorem everyStepKeepsTheInvariant : Obligations.EveryStepKeepsTheInvariant := by
  intro s t h he
  rw [step_eq h.legal] at he
  rcases nextTurn_cases s with ⟨k, _, ht⟩ | ⟨_, _, n, a, rest, _, _, ht⟩ | ⟨_, hb, _, ht⟩ | ⟨_, hb, _, ht⟩ |
    ⟨_, _, _, a, rest, _, ht⟩ | ⟨_, _, _, _, ht⟩ <;> rw [ht] at he
  · exact runCode_Inv (setInputs_Inv h h.memory.1) he
  · exact hostAct_Inv (setInputs_Inv h h.memory.1) he
  · cases he; exact runOperation_Inv (setInputs_Inv h h.memory.1) hb
  · exact answerStart_Inv h hb he
  · exact hostAct_Inv (setInputs_Inv h h.memory.1) he
  · cases he; exact h

/-! ## FATAL stays until a reset -/

@[simp] theorem readFrame_fatal (s : State) : (readFrame s).fatal = s.fatal := by
  rcases readFrame_ends s with ⟨fr, p, k, _, h⟩ | ⟨fr, pl, k, _, h⟩ <;> simp [h]

@[simp] theorem readGivenFrame_fatal (b : Bits) (s : State) : (readGivenFrame b s).fatal = s.fatal := by
  rcases readGivenFrame_cases b s with ⟨_, h⟩ | ⟨_, h⟩ <;> simp [h]

@[simp] theorem buildGiven_fatal (r : Request) (sys unit : Nat) (s : State) : (buildGiven r sys unit s).fatal = s.fatal := by
  rcases buildGiven_cases r sys unit s with ⟨_, _, h⟩ | ⟨_, h⟩ <;> simp [h, buildRequest_eq]

@[simp] theorem runValidate_fatal (s : State) : (runValidate s).fatal = s.fatal := by
  rcases runValidate_cases s with ⟨_, h⟩ | ⟨_, h⟩ <;> simp [h]

@[simp] theorem runDecode_fatal (s : State) : (runDecode s).fatal = s.fatal := by
  rcases runDecode_cases s with ⟨_, h⟩ | ⟨_, h⟩ | ⟨b, _, h⟩ <;> simp [h]

/-- OP_ENCODE never reaches ST_FATAL_SIZING (R91, R116). -/
@[simp] theorem runEncode_fatal (s : State) : (runEncode s).fatal = s.fatal := by
  rcases runEncode_cases s with ⟨_, h⟩ | ⟨_, _, h⟩ | ⟨sys, _, _, h⟩ | ⟨sys, _, _, _, h⟩ | ⟨sys, unit, _, _, _, h⟩ |
    ⟨sys, unit, r, _, _, _, h⟩ <;> simp [h, sendRequest_eq]

/-- No operation run whole changes FATAL (R24, R91). -/
@[simp] theorem runOperation_fatal (s : State) : (runOperation s).fatal = s.fatal := by
  rcases runOperation_eq s with ⟨_, h⟩ | ⟨_, h⟩ | ⟨_, h⟩ | ⟨_, h⟩ <;> simp [h, runReserved]

/-- No next state of a row has FATAL cleared: the operations keep it, and a failure can only set it (R24, R116). -/
theorem exec_keeps_fatal {i : Instr} {s t : State} (hf : s.fatal = true) (he : exec i s = .next t) : t.fatal = true := by
  apply exec_next he (P := fun u => u.fatal = true) <;> intros <;> simp [hf]

theorem runUnlisted_keeps_fatal {k : Code} {s t : State} (hf : s.fatal = true) (he : runUnlisted k s = .next t) : t.fatal = true := by
  rcases runUnlisted_next he with rfl | ⟨_, _, ⟨b, rfl⟩ | ⟨d0, d1, h⟩⟩
  · exact hf
  · simp [hf]
  · rcases readPair_next h with rfl | ⟨b, _, _, rfl⟩ <;> simp [hf]

theorem runCode_keeps_fatal {k : Code} {s t : State} (hf : s.fatal = true) (he : runCode k s = .next t) : t.fatal = true := by
  rcases runCode_cases k s with ⟨i, _, hc⟩ | ⟨_, _, hc⟩ <;> rw [hc] at he
  · exact exec_keeps_fatal hf he
  · exact runUnlisted_keeps_fatal hf he

/-- A host action that clears FATAL is a reset (R128). -/
theorem hostAct_clears_fatal {a : HostAction} {s t : State} (hf : s.fatal = true) (he : hostAct a s = .next t)
    (ht : t.fatal = false) : a = .reset := by
  by_contra ha
  suffices t.fatal = true by simp [ht] at this
  cases a with
  | pinClear | writeReqSys v | writeReqUnit v | writeOp c | raiseStart k => cases he; exact unlessBusy (P := (·.fatal = true)) hf hf
  | pinPush d =>
    change (if _ then _ else _) = _ at he
    split at he <;> cases he
    refine unlessBusy (P := (·.fatal = true)) hf ?_
    split <;> exact hf
  | writeReqCmd c => exact exec_keeps_fatal hf he
  | reset => exact absurd rfl ha
  | read r => exact hostAct_read_next he ▸ hf

/-- While FATAL = 1 a raised START is answered at once (R124). -/
theorem answerStart_of_fatal {s : State} (hf : s.fatal = true) :
    answerStart s = runCode (.hostOp s.op) { s with start := false, hold := 0 } := by
  simp [answerStart, hf]

/-- Settles O6: a code, an operation and an answered START keep a FATAL that is set, so the move is a host action, and that action a reset. -/
theorem fatalIsClearedByResetAlone : Obligations.FatalIsClearedByResetAlone := by
  intro s t hf he ht
  have hset : t.fatal ≠ true := by simp [ht]
  rw [step_eq (step_legal he)] at he
  rcases nextTurn_cases s with ⟨k, _, hn⟩ | ⟨hp, _, n, a, rest, _, hh, hn⟩ | ⟨_, _, _, hn⟩ | ⟨_, _, _, hn⟩ |
    ⟨hp, _, _, a, rest, hh, hn⟩ | ⟨_, _, _, _, hn⟩ <;> rw [hn] at he
  · exact absurd (runCode_keeps_fatal (by exact hf) he) hset
  · obtain rfl := hostAct_clears_fatal (by exact hf) he ht
    exact ⟨hp, rest, hh, .inr ⟨n, hn⟩⟩
  · cases he; simp [hf] at hset
  · rw [takeTurn, answerStart_of_fatal hf] at he
    exact absurd (runCode_keeps_fatal (by exact hf) he) hset
  · obtain rfl := hostAct_clears_fatal (by exact hf) he ht
    exact ⟨hp, rest, hh, .inl hn⟩
  · cases he; exact absurd hf hset


/-! ## The REQ_CMD rows -/

theorem writeReqCmd_idle {s : State} (h : s.busy = false) (c : BitVec 2) : writeReqCmd c s = { s with reqCmd := c } := by
  simp [writeReqCmd, h]

theorem writeReqCmd_busy {s : State} (h : s.busy = true) (c : BitVec 2) : writeReqCmd c s = s := by
  simp [writeReqCmd, h]

/-- The four codes of a two-bit register. -/
theorem code2_cases (c : BitVec 2) : c = 0#2 ∨ c = 1#2 ∨ c = 2#2 ∨ c = 3#2 := by
  revert c
  decide

/-- Each REQ_CMD row is the host's write of its code (R59). -/
theorem exec_reqCmd (c : BitVec 2) (s : State) : exec (decodeReqCmd c) s = .next (writeReqCmd c s) := by
  rcases code2_cases c with rfl | rfl | rfl | rfl <;> rfl

/-- A write of REQ_CMD, taken or ignored, changes nothing else (R26, R133). -/
theorem writeReqCmd_frame (c : BitVec 2) (s : State) :
    writeReqCmd c s = { s with reqCmd := (writeReqCmd c s).reqCmd } ∧ s.SameSchedule (writeReqCmd c s) := by
  unfold writeReqCmd
  split <;> exact ⟨rfl, rfl, rfl, rfl⟩

/-- The REQ_CMD rows are those that REQ_CMD codes decode to (R59). -/
theorem reqCmd_row {i : Instr} (h : i ∈ [Instr.rcAbsent, .rcOn, .rcOff, .rcQuery]) : ∃ c, i = decodeReqCmd c := by
  simp only [List.mem_cons, List.not_mem_nil, or_false] at h
  rcases h with rfl | rfl | rfl | rfl
  exacts [⟨0#2, rfl⟩, ⟨1#2, rfl⟩, ⟨2#2, rfl⟩, ⟨3#2, rfl⟩]

/-- Settles O41: each row is the write of its code, which BUSY = 1 makes the block ignore. -/
theorem requestCodesAreWrittenWhileIdle : Obligations.RequestCodesAreWrittenWhileIdle := by
  intro s
  refine ⟨fun hb => ?_, fun hb c => ?_, rfl, rfl, rfl, rfl⟩
  · have h : ∀ c, exec (decodeReqCmd c) s = .next { s with reqCmd := c } := fun c => by
      rw [exec_reqCmd, writeReqCmd_idle hb]
    exact ⟨h 0#2, h 1#2, h 2#2, h 3#2⟩
  · rw [exec_reqCmd, writeReqCmd_busy hb]

/-! ## What a row leaves unchanged -/

/-- Settles O10: a REQ_CMD row is a write of REQ_CMD; every other row is made of operations that keep the inputs and the schedule. -/
theorem noRowChangesTheInputs : Obligations.NoRowChangesTheInputs := by
  intro i s t he
  by_cases hi : i ∈ [Instr.rcAbsent, .rcOn, .rcOff, .rcQuery]
  · obtain ⟨c, rfl⟩ := reqCmd_row hi
    rw [exec_reqCmd] at he
    cases he
    exact ⟨fun hn => absurd hi hn, fun _ => (writeReqCmd_frame c s).1, (writeReqCmd_frame c s).2⟩
  · have hsame : s.SameInputs s ∧ s.SameSchedule s := (Keeps.refl s).1
    have hkeeps : s.SameInputs t ∧ s.SameSchedule t :=
      exec_next he (P := fun u => s.SameInputs u ∧ s.SameSchedule u) hsame
        (hrun := fun op _ => (runOperation_keeps (acceptStart op s)).1)
        (hcmd := fun _ h _ => absurd h hi)
        (hgiven := fun b _ _ => (readGivenFrame_keeps b s).1)
        (hbuild := fun r sys unit _ _ => (buildGiven_keeps r sys unit s).1)
        (hempty := fun _ _ => (failEmpty_keeps s).1)
        (hbit := fun _ _ => hsame) (hpulses := fun _ _ _ => hsame) (hfail := fun _ _ => hsame) (hsucc := fun _ => hsame)
        (hrep := fun _ _ => hsame) (hreq := fun _ _ _ _ => hsame) (hidle := fun _ => hsame) (hreason := fun _ _ => hsame)
    exact ⟨fun _ => hkeeps.1, fun h => absurd h hi, hkeeps.2⟩

/-! ## What the frame decoders construct -/

theorem commandOf_isSome {c : Config} {k : Nat} (h : (commandOf c k).isSome = true) :
    k ∈ [c.cmdOn, c.cmdOff, c.cmdStateQuery, c.cmdStateInform] := by
  by_contra hk
  simp only [List.mem_cons, List.not_mem_nil, or_false, not_or] at hk
  obtain ⟨h1, h2, h3, h4⟩ := hk
  simp [commandOf, h1, h2, h3, h4] at h

/-- A header of the frame registers is of this protocol, in range and of a known command (R18, R83, R84). -/
theorem Frame.acceptable_iff {c : Config} {f : Frame} :
    f.acceptable c = true ↔
      f.proto = c.protocolId ∧ f.toSys ≤ c.idMax ∧ f.toUnit ≤ c.idMax ∧ (commandOf c f.cmd).isSome = true := by
  simp [Frame.acceptable, and_assoc]

theorem Payload.acceptable_iff {c : Config} {p : Payload} : p.acceptable c = true ↔ p.sys ≤ c.idMax ∧ p.unit ≤ c.idMax := by
  simp [Payload.acceptable]

/-- DECODE_FRAME leaves the cursor behind the header (R82). -/
theorem decodeFrame_some_cursor {c : Config} {b : Bits} {f : Frame} {k : Nat} (h : decodeFrame c b = (some f, k)) :
    k = 4 * c.idBits ∧ k ≤ b.length := by
  obtain ⟨hk, hle, _⟩ := readHeader_some (decodeFrame_some h).2
  exact ⟨hk, hle⟩

/-- DECODE_STATE_INFORM leaves the cursor behind the payload (R85). -/
theorem decodeStateInform_some_cursor {c : Config} {b : Bits} {cur k : Nat} {p : Payload}
    (h : decodeStateInform c b cur = (some p, k)) : k = cur + 2 * c.idBits + 1 ∧ k ≤ b.length :=
  readPayload_some (decodeStateInform_some h).2

/-- Settles O26: what is constructed is acceptable, and was read from fields within the bits. -/
theorem decodersConstructAcceptableFramesOnly : Obligations.DecodersConstructAcceptableFramesOnly := by
  intro c b cur k
  constructor
  · intro f h
    obtain ⟨hproto, hsys, hunit, hcmd⟩ := Frame.acceptable_iff.mp (decodeFrame_some h).1
    exact ⟨hproto, hsys, hunit, commandOf_isSome hcmd, decodeFrame_some_cursor h⟩
  · intro p h
    obtain ⟨hsys, hunit⟩ := Payload.acceptable_iff.mp (decodeStateInform_some h).1
    exact ⟨hsys, hunit, decodeStateInform_some_cursor h⟩

/-! ## The working registers OP_DECODE leaves -/

/-- A train that VALIDATE rejects, PULSE_DECODE rejects too: its checks include the validator's (R75, R94, R96). -/
theorem pulseDecode_of_rejected {c : Config} {p : Train} {ovf : Bool} (h : validate c p ovf = false) : pulseDecode c p ovf = none := by
  have hw : trainIsWhole c p ovf = false := by
    cases hovf : ovf
    · have ht : endsInTrailer c p = false := by simpa [validate, hovf] using h
      simp [trainIsWhole, ht]
    · simp [trainIsWhole]
  simp [pulseDecode, hw]

/-- A train that decodes takes OP_DECODE's body to the frame layer, with its bits in BITS (R98, R108). -/
theorem runDecode_of_bits {s : State} {b : Bits} (h : pulseDecode s.cfg s.pin s.pinOvf = some b) :
    ∃ u : State, runDecode s = readFrame u ∧ u.cfg = s.cfg ∧ u.bits = b ∧ u.payload = s.payload := by
  rcases runDecode_cases s with ⟨hv, _⟩ | ⟨hn, _⟩ | ⟨b', hb, hr⟩
  · rw [pulseDecode_of_rejected hv] at h; cases h
  · rw [hn] at h; cases h
  · rw [hb] at h; cases h; exact ⟨_, hr, rfl, rfl, rfl⟩

/-- A train that does not decode leaves BITS empty and touches no other register of the frame path (R75). -/
theorem runDecode_of_empty {s : State} (hs : s.bits = []) (h : pulseDecode s.cfg s.pin s.pinOvf = none) :
    (runDecode s).bits = [] ∧ (runDecode s).frame = s.frame ∧ (runDecode s).payload = s.payload := by
  rcases runDecode_cases s with ⟨_, hr⟩ | ⟨_, hr⟩ | ⟨b, hb, _⟩
  · simp [hr, hs]
  · simp [hr]
  · rw [h] at hb; cases hb

@[simp] theorem readFrame_bits (s : State) : (readFrame s).bits = s.bits := by
  rcases readFrame_ends s with ⟨fr, p, k, _, h⟩ | ⟨fr, pl, k, _, h⟩ <;> simp [h]

/-- The frame registers hold what DECODE_FRAME answers, whatever follows (R18, R82). -/
theorem readFrame_frame (s : State) : (readFrame s).frame = (decodeFrame s.cfg s.bits).1 := by
  rcases readFrame_cases s with ⟨k, hd, hr⟩ | ⟨f, k, hd, _, hr⟩ | ⟨f, k, hd, _, hr⟩
  · simp [hd, hr]
  · simp [hd, hr]
  · rcases readReport_cases { s with frame := some f, cur := k } with ⟨p, k', _, hr'⟩ | ⟨k', _, hr'⟩ <;> simp [hd, hr, hr']

/-- Without a frame no payload is read (R98). -/
theorem readFrame_payload_of_none {s : State} (h : (decodeFrame s.cfg s.bits).1 = none) : (readFrame s).payload = s.payload := by
  rcases readFrame_cases s with ⟨k, _, hr⟩ | ⟨f, k, hd, _, _⟩ | ⟨f, k, hd, _, _⟩
  · simp [hr]
  · simp [hd] at h
  · simp [hd] at h

/-- A frame that is not accepted leaves the cursor behind its header, and no payload is read (R82, R100). -/
theorem readFrame_of_rejected {s : State} {f : Frame} (h : (decodeFrame s.cfg s.bits).1 = some f)
    (ha : accepted s.cfg f = false) : (readFrame s).payload = s.payload ∧ (readFrame s).cur = 4 * s.cfg.idBits := by
  rcases readFrame_cases s with ⟨k, hd, _⟩ | ⟨g, k, hd, _, hr⟩ | ⟨g, k, hd, hg, _⟩ <;> rw [hd] at h <;> cases h
  · simp [hr, (decodeFrame_some_cursor hd).1]
  · rw [ha] at hg; cases hg

/-- An accepted frame is followed by what DECODE_STATE_INFORM answers behind its header; a payload that is read leaves the cursor behind
it (R85). -/
theorem readFrame_of_accepted {s : State} {f : Frame} (h : (decodeFrame s.cfg s.bits).1 = some f) (ha : accepted s.cfg f = true) :
    (readFrame s).payload = (decodeStateInform s.cfg s.bits (4 * s.cfg.idBits)).1 ∧
      ((readFrame s).payload ≠ none → (readFrame s).cur = 6 * s.cfg.idBits + 1) := by
  rcases readFrame_cases s with ⟨k, hd, _⟩ | ⟨g, k, hd, hg, _⟩ | ⟨g, k, hd, _, hr⟩ <;> rw [hd] at h <;> cases h
  · rw [ha] at hg; cases hg
  · obtain ⟨rfl, _⟩ := decodeFrame_some_cursor hd
    rcases readReport_cases { s with frame := some f, cur := 4 * s.cfg.idBits } with ⟨p, k, hp, hr'⟩ | ⟨k, hp, hr'⟩ <;>
      simp only at hp
    · have hk := (decodeStateInform_some_cursor hp).1
      exact ⟨by simp [hr, hr', hp], fun _ => by simp [hr, hr', hk]; omega⟩
    · simp [hr, hr', hp]

/-- Settles O32: the train is Empty, or the frame layer ends at the header, at the acceptance test, or at the payload. -/
theorem opDecodeLeavesTheDecodedRegisters : Obligations.OpDecodeLeavesTheDecodedRegisters := by
  intro s ha
  refine ⟨_, startOperation_accepted ha, ?_⟩
  cases hd : pulseDecode s.cfg s.pin s.pinOvf with
  | none => exact runDecode_of_empty (s := acceptStart 1#2 s) rfl hd
  | some b =>
    obtain ⟨u, hr, hcfg, rfl, hnone⟩ := runDecode_of_bits (s := acceptStart 1#2 s) hd
    rw [hr, show s.cfg = u.cfg from hcfg.symm]
    replace hnone : u.payload = none := hnone
    refine ⟨readFrame_bits u, readFrame_frame u, ?_⟩
    cases hf : (decodeFrame u.cfg u.bits).1 with
    | none => exact (readFrame_payload_of_none hf).trans hnone
    | some f =>
      cases hacc : accepted u.cfg f with
      | false =>
        obtain ⟨hpayload, hcur⟩ := readFrame_of_rejected hf hacc
        rw [hnone] at hpayload
        exact ⟨by simp [hpayload, hacc], fun _ => hcur, fun hne => absurd hpayload hne⟩
      | true =>
        obtain ⟨hpayload, hcur⟩ := readFrame_of_accepted hf hacc
        exact ⟨by simp [hpayload, hacc], by simp [hacc], hcur⟩

/-! ## The working registers and outputs a sent request leaves -/

/-- A request without a defect takes OP_ENCODE's body to the builder (R102). -/
theorem runEncode_of_good {s : State} {sys unit : Nat} {r : Request} (hs : parseAddress s.cfg s.reqSys = some sys)
    (hu : parseAddress s.cfg s.reqUnit = some unit) (hr : requestOf s.reqCmd = some r) :
    runEncode s = sendRequest r sys unit { s with aSys := some sys, aUnit := some unit } := by
  have hs0 : s.reqSys ≠ none := fun h => by simp [h, parseAddress] at hs
  have hu0 : s.reqUnit ≠ none := fun h => by simp [h, parseAddress] at hu
  simp [runEncode, parseSys, parseUnit, mapCommand, hs0, hs, hu0, hu, hr]

/-- Settles O35: the request is built, encoded and delivered. -/
theorem encodeOfAGoodRequestIsSent : Obligations.EncodeOfAGoodRequestIsSent := by
  intro s sys unit r ha hs hu hr
  refine ⟨_, startOperation_accepted ha, ?_⟩
  rw [runEncode_of_good (s := acceptStart 2#2 s) hs hu hr, sendRequest_eq]
  have hlen : 2 * (4 * s.cfg.idBits) + 2 = s.cfg.minRawLength := by rw [Config.minRawLength]; omega
  simp [State.EndedIn, State.HoldsMessage, hlen]

/-! ## The outcome depends on the inputs alone -/

/-- `s` with the registers of `u` that no body of an operation looks at: OP and START, which are sampled before it, and the model's own fields. -/
def State.withHostSide (u s : State) : State :=
  { s with op := u.op, start := u.start, hold := u.hold, host := u.host, present := u.present, freeIdx := u.freeIdx }

section withHostSide

variable (u s : State)

@[simp] theorem withHostSide_cfg : (u.withHostSide s).cfg = s.cfg := rfl
@[simp] theorem withHostSide_pin : (u.withHostSide s).pin = s.pin := rfl
@[simp] theorem withHostSide_pinOvf : (u.withHostSide s).pinOvf = s.pinOvf := rfl
@[simp] theorem withHostSide_reqSys : (u.withHostSide s).reqSys = s.reqSys := rfl
@[simp] theorem withHostSide_reqUnit : (u.withHostSide s).reqUnit = s.reqUnit := rfl
@[simp] theorem withHostSide_reqCmd : (u.withHostSide s).reqCmd = s.reqCmd := rfl
@[simp] theorem withHostSide_bits : (u.withHostSide s).bits = s.bits := rfl
@[simp] theorem withHostSide_cur : (u.withHostSide s).cur = s.cur := rfl
@[simp] theorem withHostSide_opRun : (u.withHostSide s).opRun = s.opRun := rfl

end withHostSide

theorem runValidate_withHostSide (u s : State) : runValidate (u.withHostSide s) = u.withHostSide (runValidate s) := by
  unfold runValidate
  change (if validate s.cfg s.pin s.pinOvf then _ else _) = _
  split <;> rfl

theorem readReport_withHostSide (u s : State) : readReport (u.withHostSide s) = u.withHostSide (readReport s) := by
  simp only [readReport, withHostSide_cfg, withHostSide_bits, withHostSide_cur]
  rcases decodeStateInform s.cfg s.bits s.cur with ⟨_ | p, k⟩ <;> rfl

theorem readFrame_withHostSide (u s : State) : readFrame (u.withHostSide s) = u.withHostSide (readFrame s) := by
  simp only [readFrame, withHostSide_cfg, withHostSide_bits]
  rcases decodeFrame s.cfg s.bits with ⟨_ | f, k⟩
  · rfl
  · change (if accepted s.cfg f then _ else _) = State.withHostSide u (if accepted s.cfg f then _ else _)
    split
    · exact readReport_withHostSide u { s with frame := some f, cur := k }
    · rfl

theorem readTrain_withHostSide (u s : State) : readTrain (u.withHostSide s) = u.withHostSide (readTrain s) := by
  simp only [readTrain, withHostSide_cfg, withHostSide_pin, withHostSide_pinOvf]
  rcases pulseDecode s.cfg s.pin s.pinOvf with _ | b
  · rfl
  · exact readFrame_withHostSide u { s with pulseIdx := pulseIndexAfterDecode s.cfg s.pin s.pinOvf, bits := b }

theorem runDecode_withHostSide (u s : State) : runDecode (u.withHostSide s) = u.withHostSide (runDecode s) := by
  unfold runDecode
  change (if validate s.cfg s.pin s.pinOvf then _ else _) = _
  split
  · exact readTrain_withHostSide u s
  · rfl

theorem mapCommand_withHostSide (sys unit : Nat) (u s : State) :
    mapCommand sys unit (u.withHostSide s) = u.withHostSide (mapCommand sys unit s) := by
  simp only [mapCommand, withHostSide_reqCmd, sendRequest_eq]
  rcases requestOf s.reqCmd with _ | r <;> rfl

theorem parseUnit_withHostSide (sys : Nat) (u s : State) : parseUnit sys (u.withHostSide s) = u.withHostSide (parseUnit sys s) := by
  unfold parseUnit
  change (if s.reqUnit = none then _ else _) = _
  split
  · rfl
  · simp only [withHostSide_cfg, withHostSide_reqUnit]
    rcases parseAddress s.cfg s.reqUnit with _ | unit
    · rfl
    · exact mapCommand_withHostSide sys unit u { s with aUnit := some unit }

theorem runEncode_withHostSide (u s : State) : runEncode (u.withHostSide s) = u.withHostSide (runEncode s) := by
  unfold runEncode parseSys
  change (if s.reqSys = none then _ else _) = _
  split
  · rfl
  · simp only [withHostSide_cfg, withHostSide_reqSys]
    rcases parseAddress s.cfg s.reqSys with _ | sys
    · rfl
    · exact parseUnit_withHostSide sys u { s with aSys := some sys }

/-- No body of an operation looks at OP, START or the model's own fields (R27, R28). -/
theorem runOperation_withHostSide (u s : State) : runOperation (u.withHostSide s) = u.withHostSide (runOperation s) := by
  rcases opRun_cases s with ho | ho | ho | ho <;> simp only [runOperation, withHostSide_opRun, ho]
  · exact runValidate_withHostSide u s
  · exact runDecode_withHostSide u s
  · exact runEncode_withHostSide u s
  · rfl

/-- An accepted START leaves of the state before it the inputs and the host's side alone (R27). -/
theorem acceptStart_eq_of_inputs {s s' : State} (c : BitVec 2) (hf : s.fatal = s'.fatal) (hcfg : s.cfg = s'.cfg) (hpin : s.pin = s'.pin)
    (hovf : s.pinOvf = s'.pinOvf) (hsys : s.reqSys = s'.reqSys) (hunit : s.reqUnit = s'.reqUnit) (hcmd : s.reqCmd = s'.reqCmd) :
    acceptStart c s' = s'.withHostSide (acceptStart c s) := by
  simp only [acceptStart, clearOutputs, clearWorking, State.withHostSide, hf, hcfg, hpin, hovf, hsys, hunit, hcmd]

/-- Settles O38: the accepted states differ in the host's side alone, so their operations end in states that differ there alone. -/
theorem outcomeDependsOnTheInputsAlone : Obligations.OutcomeDependsOnTheInputsAlone := by
  intro s s' c ha ha' hcfg hpin hovf hsys hunit hcmd
  have hf : s.fatal = s'.fatal := by rw [(acceptsStart_iff.mp ha).2, (acceptsStart_iff.mp ha').2]
  refine ⟨_, _, exec_hostOp c ha, exec_hostOp c ha', ?_⟩
  rw [acceptStart_eq_of_inputs c hf hcfg hpin hovf hsys hunit hcmd, runOperation_withHostSide]
  simp [State.withHostSide, State.SameWorking]


/-! ## The decoded row of a step -/

/-- A legal instance whose next move is known takes it (R6). -/
theorem step_of_turn {s : State} {t : Turn} (hl : s.cfg.Legal) (hn : nextTurn s = t) : step s = takeTurn t s := by
  rw [step_eq hl, hn]

theorem runCode_of_ok {k : Code} {i : Instr} {s : State} (h : decode s.cfg k = .ok i) : runCode k s = exec i s := by
  simp [runCode, h]

theorem runCode_of_error {k : Code} {e : DecodeError} {s : State} (h : decode s.cfg k = .error e) : runCode k s = runUnlisted k s := by
  simp [runCode, h]

/-- A code put to its component is the next move (log 4). -/
theorem step_present {s : State} {k : Code} (hl : s.cfg.Legal) (hp : s.present = some k) :
    step s = runCode k { s with present := none } :=
  step_of_turn hl (t := .component k) (by simp [nextTurn, hp])

theorem step_start {s : State} (hl : s.cfg.Legal) (hp : s.present = none) (hb : s.busy = false) (hs : s.start = true) :
    step s = answerStart s :=
  step_of_turn hl (t := .start) (by simp [nextTurn, hp, hb, hs])

theorem step_host {s : State} {a : HostAction} {rest : List HostAction} (hl : s.cfg.Legal) (hp : s.present = none)
    (hb : s.busy = false) (hs : s.start = false) (hh : s.host = a :: rest) : step s = hostAct a { s with host := rest } :=
  step_of_turn hl (t := .host a rest) (by simp [nextTurn, hp, hb, hs, hh])

/-- Settles O8: each clause is one move of `nextTurn`, and what `takeTurn` does on it. -/
theorem aStepRunsTheDecodedRow : Obligations.AStepRunsTheDecodedRow := by
  intro s hl
  refine ⟨fun k i hp hd => ?_, fun hp hb hs hnow => ?_, fun c rest hp hb hs hh => step_host hl hp hb hs hh, fun k e hp hd => ?_,
    fun a rest hp hb hs hh => step_host hl hp hb hs hh, fun hp hb hs hhold hhost hf => ?_, fun n a rest hp hb hn hh => ?_,
    fun hp hb hlast => ?_⟩
  · rw [step_present hl hp]
    exact runCode_of_ok hd
  · rw [step_start hl hp hb hs, answerStart, if_pos hnow]
    rfl
  · rw [step_present hl hp]
    exact runCode_of_error hd
  · rw [step_start hl hp hb hs, answerStart, if_neg (by simp [hhold, hhost, hf])]
  · exact step_of_turn hl (t := .hostInside n a rest) (by simp [nextTurn, hp, hb, hn, hh])
  · refine step_of_turn hl (t := .complete) ?_
    rcases hlast with h | h <;> simp [nextTurn, hp, hb, h]

/-! ## Request frames inside ENCODE -/

/-- The command code of a request in the table's FRAME rows (R57). -/
def Request.rowCode : Request → Nat
  | .on => 0
  | .off => 1
  | .query => 2

/-- On an instance laid out as the table's rows, a request has the row's command code (R57). -/
theorem Request.code_of_layout {c : Config} {n : Nat} (h : c.TableLayout n) (r : Request) : r.code c = r.rowCode := by
  obtain ⟨_, _, hon, hoff, hquery, _⟩ := h
  cases r
  exacts [hon, hoff, hquery]

/-- `s` after a builder of `n`-bit fields has written SIZE_REQ, BITS and the frame registers (R87). -/
def State.withBuilt (s : State) (n a u k : Nat) : State :=
  { s with sizeReq := 4 * n, bits := headerBits n 1 a u k, frame := some ⟨1, a, u, k⟩ }

theorem buildRequest_of_layout {n : Nat} {s : State} (h : s.cfg.TableLayout n) (r : Request) (a u : Nat) :
    buildRequest r a u s = s.withBuilt n a u r.rowCode := by
  rw [buildRequest_eq, loadFrame, buildSize_eq, Request.code_of_layout h]
  obtain ⟨hn, hproto, _⟩ := h
  rw [hn, hproto]
  rfl

/-- Inside ENCODE a request row of the instance's layout is a builder (R87). -/
theorem frameRequest_insideEncode {n k : Nat} {r : Request} {a u : Nat} {s : State} (hb : s.busy = true) (ho : s.opRun = 2#2)
    (hl : s.cfg.TableLayout n) : frameRequest n k r a u s = .next (buildGiven r a u s) := by
  rw [frameRequest, whileBusy_busy hb, ho]
  exact if_neg (not_not.mpr hl)

theorem frameRequest_built {n : Nat} {s : State} (hb : s.busy = true) (ho : s.opRun = 2#2) (hl : s.cfg.TableLayout n) {a u : Nat}
    (ha : a ≤ s.cfg.idMax) (hu : u ≤ s.cfg.idMax) (r : Request) (k : Nat) :
    frameRequest n k r a u s = .next (s.withBuilt n a u r.rowCode) := by
  rw [frameRequest_insideEncode hb ho hl, buildGiven, if_pos ⟨ha, hu⟩, buildRequest_of_layout hl]

/-- With an operand above ID_MAX two Addresses, the same for each command, are built, and an operand that is an Address is one of them
(R18, log 33). -/
theorem frameRequest_built_free {n : Nat} {s : State} (hb : s.busy = true) (ho : s.opRun = 2#2) (hl : s.cfg.TableLayout n) {a u : Nat}
    (h : s.cfg.idMax < a ∨ s.cfg.idMax < u) :
    ∃ a' u', a' ≤ s.cfg.idMax ∧ u' ≤ s.cfg.idMax ∧ (a ≤ s.cfg.idMax → a' = a) ∧ (u ≤ s.cfg.idMax → u' = u) ∧
      ∀ (r : Request) (k : Nat),
        frameRequest n k r a u s = .next { s.withBuilt n a' u' r.rowCode with freeIdx := s.freeIdx + 2 } := by
  refine ⟨builtAddress s.freeIdx a s, builtAddress (s.freeIdx + 1) u s, builtAddress_le _ _ s, builtAddress_le _ _ s,
    builtAddress_of_le, builtAddress_of_le, fun r k => ?_⟩
  rw [frameRequest_insideEncode hb ho hl, buildGiven, if_neg (by omega),
    buildRequest_of_layout (s := { s with freeIdx := s.freeIdx + 2 }) hl]
  rfl

/-- Settles O42: the three rows are builders, each with its own command code. -/
theorem requestFramesAreBuiltInsideEncode : Obligations.RequestFramesAreBuiltInsideEncode := by
  intro s sys unit hb ho hl
  constructor
  · intro hs hu
    have hrow := frameRequest_built hb ho hl hs hu
    exact ⟨hrow .on 0, hrow .off 1, hrow .query 2⟩
  · intro h
    obtain ⟨a, u, ha, hu, hkeepa, hkeepu, hrow⟩ := frameRequest_built_free hb ho hl h
    exact ⟨a, u, ha, hu, hkeepa, hkeepu, hrow .on 0, hrow .off 1, hrow .query 2⟩

/-- Settles O43: the rows with 6-bit fields are the same builders. -/
theorem smallRequestFramesAreBuiltInsideEncode : Obligations.SmallRequestFramesAreBuiltInsideEncode := by
  intro s sys unit hb ho hl
  constructor
  · intro hs hu
    have hrow := frameRequest_built hb ho hl hs hu
    exact ⟨hrow .on 0, hrow .off 1, hrow .query 2⟩
  · intro h
    obtain ⟨a, u, ha, hu, hkeepa, hkeepu, hrow⟩ := frameRequest_built_free hb ho hl h
    exact ⟨a, u, ha, hu, hkeepa, hkeepu, hrow .on 0, hrow .off 1, hrow .query 2⟩

/-! ## Bad pairs inside DECODE -/

/-- An Empty train: ST_NOMATCH, BITS and the cursor emptied, the outputs cleared, and nothing else written (R75, R114, R121). -/
theorem failEmpty_spec (s : State) :
    (failEmpty s).EndedIn .noMatch ∧ (failEmpty s).OutputsClear ∧ (failEmpty s).reason = .none ∧ (failEmpty s).bits = [] ∧
      (failEmpty s).cur = 0 ∧ (failEmpty s).pulseIdx = s.pulseIdx ∧ (failEmpty s).frame = s.frame ∧
      (failEmpty s).payload = s.payload ∧ s.SameElsewhere (failEmpty s) ∧ s.SameInputs (failEmpty s) ∧
      (failEmpty s).hold = s.hold ∧ (failEmpty s).host = s.host := by
  simp [State.EndedIn, State.OutputsClear, State.SameElsewhere, State.SameInputs]

/-- Inside DECODE a bit symbol is a turn of the pair loop (R75). -/
theorem bitSymbol_insideDecode {s : State} (hb : s.busy = true) (ho : s.opRun = 1#2) (b : Bool) (d0 d1 : Nat) :
    bitSymbol b d0 d1 s = readPair d0 d1 s := by
  rw [bitSymbol, whileBusy_busy hb, ho]
  rfl

theorem trailerSymbol_insideDecode {s : State} (hb : s.busy = true) (ho : s.opRun = 1#2) (d0 d1 : Nat) :
    trailerSymbol d0 d1 s = readTrailer d0 d1 s := by
  rw [trailerSymbol, whileBusy_busy hb, ho]
  rfl

/-- A pair that is no row but fits the port is a turn of the pair loop (R63, R75). -/
theorem unlistedPair_insideDecode {s : State} (hb : s.busy = true) (ho : s.opRun = 1#2) {d0 d1 : Nat}
    (hfit : Instr.pairFits s.cfg d0 d1 = true) : unlistedPair d0 d1 s = readPair d0 d1 s := by
  rw [unlistedPair, if_pos hfit, whileBusy_busy hb, ho]
  rfl

theorem readPair_of_none {d0 d1 : Nat} {s : State} (h : pairToBit s.cfg d0 d1 = none) : readPair d0 d1 s = .next (failEmpty s) := by
  simp [readPair, h]

theorem readTrailer_bad {d0 d1 : Nat} {s : State} (h : isTrailer s.cfg d0 d1 = false ∨ s.bits = []) :
    readTrailer d0 d1 s = .next (failEmpty s) := by
  rcases h with h | h <;> simp [readTrailer, h]

/-- A pair that decodes as no symbol fits the port and carries no bit (R47, R63). -/
theorem decode_notASymbol {c : Config} {d0 d1 : Nat} (h : decode c (.pulsePair d0 d1) = .error .notASymbol) :
    Instr.pairFits c d0 d1 = true ∧ pairToBit c d0 d1 = none := by
  simp only [decode, decodePulsePair] at h
  split at h
  · cases h
  · rename_i hfit
    split at h
    · cases h
    · cases h
    · rename_i hp
      exact ⟨by simpa using hfit, hp⟩

/-- Settles O49: in each clause the train is Empty. -/
theorem badPairsEndInNoMatch : Obligations.BadPairsEndInNoMatch := by
  intro s d0 d1 hb ho
  refine ⟨fun hp => ?_, fun ht => ?_, fun hl hp hd => ?_⟩
  · have hrow : ∀ b, bitSymbol b d0 d1 s = .next (failEmpty s) := fun b =>
      (bitSymbol_insideDecode hb ho b d0 d1).trans (readPair_of_none hp)
    exact ⟨_, hrow false, hrow true, failEmpty_spec s, rfl⟩
  · exact ⟨_, (trailerSymbol_insideDecode hb ho d0 d1).trans (readTrailer_bad ht), failEmpty_spec s, rfl⟩
  · obtain ⟨hfit, hnone⟩ := decode_notASymbol hd
    refine ⟨failEmpty { s with present := none }, ?_, failEmpty_spec { s with present := none }, rfl⟩
    rw [step_present hl hp, runCode_of_error (by exact hd)]
    exact (unlistedPair_insideDecode (by exact hb) (by exact ho) (by exact hfit)).trans (readPair_of_none (by exact hnone))

/-! ## The host's writes and reads -/

/-- Settles O58: while BUSY = 0 no write is ignored. -/
theorem hostWritesReachTheirRegisterAlone : Obligations.HostWritesReachTheirRegisterAlone := by
  intro s hb
  have hwrite : ∀ u : State, (if s.busy then s else u) = u := fun u => by simp [hb]
  have hpush : ∀ d, d < 2 ^ s.cfg.durWidth → hostAct (.pinPush d) s = .next (pinPush d s) := fun d hd => if_pos hd
  refine ⟨fun v => ⟨congrArg _ (hwrite _), congrArg _ (hwrite _)⟩, fun c => ⟨congrArg _ (hwrite _), ?_⟩,
    fun k => congrArg _ (hwrite _), congrArg _ (hwrite _), fun d hd => ⟨fun hl => ?_, fun hl => ?_⟩, fun d hd => ?_⟩
  · exact (exec_reqCmd c s).trans (congrArg _ (writeReqCmd_idle hb c))
  · rw [hpush d hd, pinPush, hwrite, if_pos hl]
  · rw [hpush d hd, pinPush, hwrite, if_neg (by omega)]
  · exact if_neg (by omega)

theorem readIdle_idle {s : State} (h : s.busy = false) (v : Except Refusal HostValue) : readIdle s v = v := by
  simp [readIdle, h]

theorem readIdle_busy {s : State} (h : s.busy = true) (v : Except Refusal HostValue) : readIdle s v = .error .readWhileBusy := by
  simp [readIdle, h]

/-- One element is read below the length alone (R32). -/
theorem readElement_eq {α : Type} (l : List α) (i : Nat) (f : α → HostValue) :
    readElement l i f = if h : i < l.length then .ok (f l[i]) else .error .readPastLength := by
  unfold readElement
  split
  · rename_i x hx
    obtain ⟨hi, rfl⟩ := List.getElem?_eq_some_iff.mp hx
    rw [dif_pos hi]
  · rename_i hx
    rw [dif_neg (by simpa using hx)]

/-- Settles O59: while BUSY = 0 a read gives the register, while BUSY = 1 none of these is defined. -/
theorem readsAreDefinedWhereTheSpecDefinesThem : Obligations.ReadsAreDefinedWhereTheSpecDefinesThem := by
  intro s r
  refine ⟨fun t => hostAct_read_next, fun hb i => ?_, fun hb => ?_, fun hb q hq => ?_, fun hb i => ?_, fun hb i => ?_, fun hb => ?_,
    by decide, by decide⟩
  · exact (readIdle_idle hb _).trans (readElement_eq _ _ _)
  · exact readIdle_idle hb _
  · simp only [List.mem_cons, List.not_mem_nil, or_false] at hq
    rcases hq with rfl | rfl | rfl | rfl | rfl | rfl | rfl | rfl | rfl <;> exact readIdle_busy hb _
  · exact ⟨readIdle_busy hb _, readIdle_busy hb _, readIdle_busy hb _⟩
  · exact ⟨(readIdle_idle hb _).trans (readElement_eq _ _ _), (readIdle_idle hb _).trans (readElement_eq _ _ _),
      (readIdle_idle hb _).trans (readElement_eq _ _ _)⟩
  · have hread := readIdle_idle hb
    exact ⟨hread _, hread _, hread _, hread _, hread _, hread _, hread _, hread _, hread _, hread _, hread _, hread _, hread _,
      hread _, hread _, rfl, rfl, rfl⟩

/-- Settles O60: the metadata is hardwired, and no register stands before it. -/
theorem metadataReadsAtAnyTime : Obligations.MetadataReadsAtAnyTime := fun _ =>
  ⟨rfl, rfl, rfl, rfl, rfl, rfl, rfl, rfl, by decide⟩

end Sys2Proof.Machine
end

section
/-! PROOFS, family 20_memory.md: the configuration under every step, the host's actions inside an operation, the pushes of a train. -/

namespace Sys2Proof.Machine

/-! ## No step changes the configuration -/

theorem Keeps.cfg {s t : State} (h : Keeps s t) : t.cfg = s.cfg := by
  obtain ⟨⟨⟨hcfg, _⟩, _⟩, _⟩ := h
  exact hcfg

theorem exec_keeps_cfg {i : Instr} {s t : State} (he : exec i s = .next t) : t.cfg = s.cfg := by
  obtain ⟨hother, hcmd, _⟩ := noRowChangesTheInputs i s t he
  by_cases hi : i ∈ [Instr.rcAbsent, .rcOn, .rcOff, .rcQuery]
  · rw [hcmd hi]
  · obtain ⟨hcfg, _⟩ := hother hi
    exact hcfg

theorem runUnlisted_keeps_cfg {k : Code} {s t : State} (he : runUnlisted k s = .next t) : t.cfg = s.cfg := by
  rcases runUnlisted_next he with rfl | ⟨_, _, ⟨b, rfl⟩ | ⟨d0, d1, hpair⟩⟩
  · rfl
  · exact (readGivenFrame_keeps b s).cfg
  · rcases readPair_next hpair with rfl | ⟨b, _, _, rfl⟩
    · exact failEmpty_cfg s
    · rfl

theorem runCode_keeps_cfg {k : Code} {s t : State} (he : runCode k s = .next t) : t.cfg = s.cfg := by
  rcases runCode_cases k s with ⟨i, _, hc⟩ | ⟨_, _, hc⟩ <;> rw [hc] at he
  · exact exec_keeps_cfg he
  · exact runUnlisted_keeps_cfg he

theorem pinPush_cfg (d : Nat) (s : State) : (pinPush d s).cfg = s.cfg := by
  refine unlessBusy (P := (·.cfg = s.cfg)) rfl ?_
  split <;> rfl

/-- No host action changes the configuration, a reset neither (R128). -/
theorem hostAct_keeps_cfg {a : HostAction} {s t : State} (he : hostAct a s = .next t) : t.cfg = s.cfg := by
  cases a with
  | pinClear | writeReqSys v | writeReqUnit v | writeOp c | raiseStart k =>
    cases he; exact unlessBusy (P := (·.cfg = s.cfg)) rfl rfl
  | pinPush d =>
    change (if _ then _ else _) = _ at he
    split at he <;> cases he
    exact pinPush_cfg d s
  | writeReqCmd c => exact exec_keeps_cfg he
  | reset => cases he; rfl
  | read r => rw [hostAct_read_next he]

theorem answerStart_keeps_cfg {s t : State} (he : answerStart s = .next t) : t.cfg = s.cfg := by
  unfold answerStart at he
  split at he
  · exact runCode_keeps_cfg (s := { s with start := false, hold := 0 }) he
  · cases he; rfl

/-- Settles O4: whoever moves next, the move keeps the configuration. -/
theorem noStepChangesTheConfiguration : Obligations.NoStepChangesTheConfiguration := by
  intro s t he
  rw [step_eq (step_legal he)] at he
  rcases nextTurn_cases s with ⟨k, _, hn⟩ | ⟨_, _, n, a, rest, _, _, hn⟩ | ⟨_, _, _, hn⟩ | ⟨_, _, _, hn⟩ |
    ⟨_, _, _, a, rest, _, hn⟩ | ⟨_, _, _, _, hn⟩ <;> rw [hn] at he
  · exact runCode_keeps_cfg (s := { s with present := none }) he
  · exact hostAct_keeps_cfg (s := { s with hold := n, host := rest }) he
  · cases he; exact (runOperation_keeps { s with hold := 0 }).cfg
  · exact answerStart_keeps_cfg he
  · exact hostAct_keeps_cfg (s := { s with host := rest }) he
  · cases he; rfl

/-! ## Host actions while BUSY = 1 -/

/-- Settles O57: a write and a second START test BUSY first, and a read changes nothing anyway. -/
theorem hostActionsAreIgnoredWhileBusy : Obligations.HostActionsAreIgnoredWhileBusy := by
  intro s t a hb ha he
  cases a with
  | pinClear | writeReqSys v | writeReqUnit v | writeOp c | raiseStart k => cases he; exact if_pos hb
  | pinPush d =>
    change (if _ then _ else _) = _ at he
    split at he <;> cases he
    exact if_pos hb
  | writeReqCmd c =>
    have hwrite : hostAct (.writeReqCmd c) s = .next s := (exec_reqCmd c s).trans (congrArg _ (writeReqCmd_busy hb c))
    rw [hwrite] at he
    cases he
    rfl
  | reset => exact absurd rfl ha
  | read r => exact hostAct_read_next he

/-- A host action that O9 lets fall inside an operation: no reset, no read, no push too wide for the port. -/
abbrev HostAction.FallsInside (c : Config) (a : HostAction) : Prop :=
  a ≠ .reset ∧ (∀ r, a ≠ .read r) ∧ ∀ d, a = .pinPush d → d < 2 ^ c.durWidth

/-- Such an action is never refused (U14, R135). -/
theorem hostAct_answers {a : HostAction} {s : State} (ha : a.FallsInside s.cfg) : ∃ t, hostAct a s = .next t := by
  obtain ⟨_, hread, hpush⟩ := ha
  cases a with
  | pinClear | writeReqSys v | writeReqUnit v | writeOp c | raiseStart k | reset => exact ⟨_, rfl⟩
  | pinPush d => exact ⟨_, if_pos (hpush d rfl)⟩
  | writeReqCmd c => exact ⟨_, exec_reqCmd c s⟩
  | read r => exact absurd rfl (hread r)

/-- Inside an operation such an action is taken and changes nothing (R133, R134). -/
theorem hostAct_busy {a : HostAction} {s : State} (hb : s.busy = true) (ha : a.FallsInside s.cfg) : hostAct a s = .next s := by
  obtain ⟨t, ht⟩ := hostAct_answers ha
  obtain ⟨hreset, _⟩ := ha
  rw [ht, hostActionsAreIgnoredWhileBusy s t a hb hreset ht]

/-! ## A run over an operation with host actions inside it -/

theorem step_hostInside {s : State} {n : Nat} {a : HostAction} {rest : List HostAction} (hl : s.cfg.Legal) (hp : s.present = none)
    (hb : s.busy = true) (hn : s.hold = n + 1) (hh : s.host = a :: rest) : step s = hostAct a { s with hold := n, host := rest } :=
  step_of_turn hl (t := .hostInside n a rest) (by simp [nextTurn, hp, hb, hn, hh])

theorem step_complete {s : State} (hl : s.cfg.Legal) (hp : s.present = none) (hb : s.busy = true) (hn : s.hold = 0) :
    step s = .next (runOperation { s with hold := 0 }) :=
  step_of_turn hl (t := .complete) (by simp [nextTurn, hp, hb, hn])

/-- A START whose operation has host actions inside it is accepted in a step of its own (log 2). -/
theorem step_accept {s : State} (hl : s.cfg.Legal) (hp : s.present = none) (ha : s.acceptsStart = true) (hs : s.start = true)
    (hhold : s.hold ≠ 0) (hhost : s.host ≠ []) : step s = .next (acceptStart s.op { s with start := false }) := by
  obtain ⟨hb, hf⟩ := acceptsStart_iff.mp ha
  rw [step_start hl hp hb hs, answerStart, if_neg (by simp [hhold, hhost, hf])]

/-- From inside an operation the run takes the actions that fall there, none of which changes anything, and completes the operation. -/
theorem run_inside {s : State} {inside rest : List HostAction} (hl : s.cfg.Legal) (hp : s.present = none) (hb : s.busy = true)
    (hn : s.hold = inside.length) (hh : s.host = inside ++ rest) (hin : ∀ a ∈ inside, a.FallsInside s.cfg) :
    Host.Core.run Sys2Proof.core (inside.length + 1) s = .next (runOperation { s with hold := 0, host := rest }) := by
  induction inside generalizing s with
  | nil =>
    obtain rfl : s.host = rest := hh
    exact core_run_succ _ 0 (step_complete hl hp hb hn)
  | cons a inside ih =>
    obtain ⟨ha, hin⟩ := List.forall_mem_cons.mp hin
    have hstep : step s = .next { s with hold := inside.length, host := inside ++ rest } :=
      (step_hostInside hl hp hb hn hh).trans (hostAct_busy hb ha)
    exact (core_run_succ _ _ hstep).trans (ih (s := { s with hold := inside.length, host := inside ++ rest }) hl hp hb rfl rfl hin)

/-- Settles O9: START is accepted, the actions inside change nothing, and the completion runs the body that the atomic operation runs. -/
theorem actionsInsideAnOperationChangeNothing : Obligations.ActionsInsideAnOperationChangeNothing := by
  intro s inside rest hl hp ha hs hne hhold hhost hin
  refine ⟨_, exec_hostOp s.op (s := { s with start := false, hold := 0, host := rest }) ha, ?_⟩
  have haccept := step_accept hl hp ha hs (by simp [hhold, hne]) (by simp [hhost, hne])
  exact (core_run_succ _ _ haccept).trans
    (run_inside (s := acceptStart s.op { s with start := false }) hl hp rfl hhold hhost hin)

/-! ## Pushing a train -/

theorem pinPush_room {s : State} (hb : s.busy = false) (hl : s.pin.length < s.cfg.pinCap) (d : Nat) :
    pinPush d s = { s with pin := s.pin ++ [d] } := by
  simp [pinPush, hb, hl]

theorem pinPush_full {s : State} (hb : s.busy = false) (hl : s.cfg.pinCap ≤ s.pin.length) (d : Nat) :
    pinPush d s = { s with pinOvf := true } := by
  simp [pinPush, hb, Nat.not_lt.mpr hl]

/-- Pushes behind what stands in PIN keep the first PIN_CAP pulses, and set PIN_OVF when one finds PIN full (R31). -/
theorem foldl_pinPush {s : State} (p : Train) (hb : s.busy = false) (hl : s.pin.length ≤ s.cfg.pinCap) :
    p.foldl (fun t d => pinPush d t) s =
      { s with
        pin := (s.pin ++ p).take s.cfg.pinCap
        pinOvf := s.pinOvf || decide (s.cfg.pinCap < s.pin.length + p.length) } := by
  induction p generalizing s with
  | nil => simp [List.take_of_length_le hl, Nat.not_lt.mpr hl]
  | cons d p ih =>
    rw [List.foldl_cons]
    rcases Nat.lt_or_eq_of_le hl with hroom | hfull
    · rw [pinPush_room hb hroom, ih (by exact hb) (by simpa using hroom)]
      simp [Nat.add_assoc, Nat.add_comm 1]
    · rw [pinPush_full hb hfull.ge, ih (by exact hb) (by exact hl)]
      simp [← hfull]

/-- Settles O56: PIN_CLEAR leaves PIN empty and PIN_OVF clear, and the pushes start from there. -/
theorem pushingATrainIsLoadingIt : Obligations.PushingATrainIsLoadingIt := by
  intro s p hb
  have hclear : pinClear s = { s with pin := [], pinOvf := false } := by simp [pinClear, hb]
  rw [hclear, foldl_pinPush p (by exact hb) (Nat.zero_le _)]
  simp

end Sys2Proof.Machine
end

section
/-! PROOFS, family 30_encoding.md: the table's decoder and encoder, the address strings, READ_FIELD and the fields of a frame, trains of
reports, and the FRAME, PULSE_PAIR, STATUS and REASON rows inside a running operation. -/

namespace Sys2Proof.Machine

/-! ## The rows of one field width -/

/-- The FRAME rows with `n`-bit fields: a request row for each command, and the report row (R57). -/
structure FrameRows (n : Nat) where
  request : Request → BitVec n → BitVec n → Instr
  report : BitVec n → BitVec n → BitVec n → BitVec n → Bool → Instr

/-- The rows with 18-bit fields. -/
def rowsN18 : FrameRows 18 where
  request
    | .on => .frameOn
    | .off => .frameOff
    | .query => .frameStateQuery
  report := .frameStateInform

/-- The rows with 6-bit fields. -/
def rowsN6 : FrameRows 6 where
  request
    | .on => .frameOnSmall
    | .off => .frameOffSmall
    | .query => .frameStateQuerySmall
  report := .frameStateInformSmall

/-- The decoder of both field widths, its rows and its width as parameters. -/
def FrameRows.decode {n : Nat} (rows : FrameRows n) (b : Bits) : Except DecodeError Instr :=
  let field := fun k => BitVec.ofNat n (frameField n k b)
  if b.length < 4 * n then .error .truncatedFrame
  else if frameField n 0 b ≠ 1 then .error .otherProtocol
  else
    match frameField n 3 b with
    | 0 => .ok (rows.request .on (field 1) (field 2))
    | 1 => .ok (rows.request .off (field 1) (field 2))
    | 2 => .ok (rows.request .query (field 1) (field 2))
    | 3 =>
      if b.length < 6 * n + 1 then .error .truncatedFrame
      else .ok (rows.report (field 1) (field 2) (field 4) (field 5) (frameState n b))
    | _ => .error .unknownCommand

/-- The model's decoder of 18-bit fields is this one at those rows. -/
theorem decodeFrameN18_eq (b : Bits) : decodeFrameN18 b = rowsN18.decode b := rfl

/-- The model's decoder of 6-bit fields is this one at those rows. -/
theorem decodeFrameN6_eq (b : Bits) : decodeFrameN6 b = rowsN6.decode b := rfl

theorem encode_rowsN18_request (r : Request) (sys unit : BitVec 18) :
    encode (rowsN18.request r sys unit) = .frameN18 (Instr.requestBits 18 r.rowCode sys.toNat unit.toNat) := by
  cases r <;> rfl

theorem encode_rowsN6_request (r : Request) (sys unit : BitVec 6) :
    encode (rowsN6.request r sys unit) = .frameN6 (Instr.requestBits 6 r.rowCode sys.toNat unit.toNat) := by
  cases r <;> rfl

section FrameRows

variable {n : Nat} (rows : FrameRows n) {b : Bits}

/-- A header of this protocol with a request's command code is the request's row (R52, R57). -/
theorem FrameRows.decode_of_request (r : Request) (hlen : 4 * n ≤ b.length) (hproto : frameField n 0 b = 1)
    (hcmd : frameField n 3 b = r.rowCode) :
    rows.decode b = .ok (rows.request r (BitVec.ofNat n (frameField n 1 b)) (BitVec.ofNat n (frameField n 2 b))) := by
  rw [FrameRows.decode, if_neg (by omega), if_neg (by simp [hproto]), hcmd]
  cases r <;> rfl

/-- A header of this protocol with command code 3 and a whole payload behind it is the report row (R53, R57). -/
theorem FrameRows.decode_of_report (hlen : 6 * n + 1 ≤ b.length) (hproto : frameField n 0 b = 1) (hcmd : frameField n 3 b = 3) :
    rows.decode b =
      .ok (rows.report (BitVec.ofNat n (frameField n 1 b)) (BitVec.ofNat n (frameField n 2 b)) (BitVec.ofNat n (frameField n 4 b))
        (BitVec.ofNat n (frameField n 5 b)) (frameState n b)) := by
  rw [FrameRows.decode, if_neg (by omega), if_neg (by simp [hproto]), hcmd]
  exact if_neg (by omega)

/-- Every row the decoder answers comes from one of the two: a request's header, or a report (R52, R53, R57). -/
theorem FrameRows.decode_ok {i : Instr} (h : rows.decode b = .ok i) :
    frameField n 0 b = 1 ∧
      ((∃ r : Request, 4 * n ≤ b.length ∧ frameField n 3 b = r.rowCode ∧
        i = rows.request r (BitVec.ofNat n (frameField n 1 b)) (BitVec.ofNat n (frameField n 2 b))) ∨
      (6 * n + 1 ≤ b.length ∧ frameField n 3 b = 3 ∧
        i = rows.report (BitVec.ofNat n (frameField n 1 b)) (BitVec.ofNat n (frameField n 2 b)) (BitVec.ofNat n (frameField n 4 b))
          (BitVec.ofNat n (frameField n 5 b)) (frameState n b))) := by
  unfold FrameRows.decode at h
  split at h
  · cases h
  · rename_i hlen
    split at h
    · cases h
    · rename_i hproto
      refine ⟨not_not.mp hproto, ?_⟩
      split at h
      · rename_i hcmd; cases h; exact .inl ⟨.on, by omega, hcmd, rfl⟩
      · rename_i hcmd; cases h; exact .inl ⟨.off, by omega, hcmd, rfl⟩
      · rename_i hcmd; cases h; exact .inl ⟨.query, by omega, hcmd, rfl⟩
      · rename_i hcmd
        split at h <;> cases h
        exact .inr ⟨by omega, hcmd, rfl⟩
      · cases h

end FrameRows

/-! ## Decoding what was encoded -/

theorem Request.rowCode_lt (r : Request) {n : Nat} (hn : 2 ≤ n) : r.rowCode < 2 ^ n :=
  calc r.rowCode < 2 ^ 2 := by cases r <;> decide
    _ ≤ 2 ^ n := Nat.pow_le_pow_right (by decide) hn

theorem three_lt_two_pow {n : Nat} (hn : 2 ≤ n) : 3 < 2 ^ n :=
  calc 3 < 2 ^ 2 := by decide
    _ ≤ 2 ^ n := Nat.pow_le_pow_right (by decide) hn

theorem FrameRows.decode_requestBits {n : Nat} (rows : FrameRows n) (hn : 2 ≤ n) (r : Request) (sys unit : BitVec n) :
    rows.decode (Instr.requestBits n r.rowCode sys.toNat unit.toNat) = .ok (rows.request r sys unit) := by
  have hproto := frameField_protocol n 1 sys.toNat unit.toNat r.rowCode [] (by have := three_lt_two_pow hn; omega)
  have hsys := frameField_toSystem n 1 sys.toNat unit.toNat r.rowCode [] sys.isLt
  have hunit := frameField_toUnit n 1 sys.toNat unit.toNat r.rowCode [] unit.isLt
  have hcmd := frameField_command n 1 sys.toNat unit.toNat r.rowCode [] (r.rowCode_lt hn)
  rw [List.append_nil] at hproto hsys hunit hcmd
  rw [Instr.requestBits, rows.decode_of_request r (by simp) hproto hcmd, hsys, hunit]
  simp

theorem FrameRows.decode_reportBits {n : Nat} (rows : FrameRows n) (hn : 2 ≤ n) (toSys toUnit sys unit : BitVec n) (state : Bool) :
    rows.decode (Instr.reportBits n toSys.toNat toUnit.toNat sys.toNat unit.toNat state) =
      .ok (rows.report toSys toUnit sys unit state) := by
  let payload := toBits n sys.toNat ++ toBits n unit.toNat ++ [state]
  have hthree := three_lt_two_pow hn
  have hproto := frameField_protocol n 1 toSys.toNat toUnit.toNat 3 payload (by omega)
  have htoSys := frameField_toSystem n 1 toSys.toNat toUnit.toNat 3 payload toSys.isLt
  have htoUnit := frameField_toUnit n 1 toSys.toNat toUnit.toNat 3 payload toUnit.isLt
  have hcmd := frameField_command n 1 toSys.toNat toUnit.toNat 3 payload hthree
  have hsys := frameField_systemcode n 1 toSys.toNat toUnit.toNat 3 sys.toNat (toBits n unit.toNat ++ [state]) sys.isLt
  have hunit := frameField_unitcode n 1 toSys.toNat toUnit.toNat 3 sys.toNat unit.toNat [state] unit.isLt
  have hstate := frameState_state n 1 toSys.toNat toUnit.toNat 3 sys.toNat unit.toNat state []
  simp only [payload, informBits, ← List.append_assoc, List.append_nil] at hproto htoSys htoUnit hcmd hsys hunit hstate
  rw [Instr.reportBits, informBits, rows.decode_of_report (by simp; omega) hproto hcmd, htoSys, htoUnit, hsys, hunit, hstate]
  simp

theorem symBit0_wf {c : Config} {d0 d1 : Nat} :
    (Instr.symBit0 d0 d1).wf c = true ↔ Instr.pairFits c d0 d1 = true ∧ pairToBit c d0 d1 = some false := by
  simp [Instr.wf]

theorem symBit1_wf {c : Config} {d0 d1 : Nat} :
    (Instr.symBit1 d0 d1).wf c = true ↔ Instr.pairFits c d0 d1 = true ∧ pairToBit c d0 d1 = some true := by
  simp [Instr.wf]

theorem symTrailer_wf {c : Config} {d0 d1 : Nat} :
    (Instr.symTrailer d0 d1).wf c = true ↔ Instr.pairFits c d0 d1 = true ∧ isTrailer c d0 d1 = true := by
  simp [Instr.wf]

/-- Settles O11: a register's code has one reading, a frame's fields are read back from their places, and a pair is of one class. -/
theorem decodeOfEncodeIsTheRow : Obligations.DecodeOfEncodeIsTheRow := by
  intro c i hwf
  cases i with
  | opValidate | opDecode | opEncode | opReserved | rcAbsent | rcOn | rcOff | rcQuery => rfl
  | stIdle | stOk | stInvalid | stNoMatch | stErrArg | stBadOp | stFatalSizing | stFatalAlloc => rfl
  | rsNone | rsSysMissing | rsSysInvalid | rsUnitMissing | rsUnitInvalid | rsCmdMissing => rfl
  | frameOn sys unit => exact rowsN18.decode_requestBits (by decide) .on sys unit
  | frameOff sys unit => exact rowsN18.decode_requestBits (by decide) .off sys unit
  | frameStateQuery sys unit => exact rowsN18.decode_requestBits (by decide) .query sys unit
  | frameStateInform toSys toUnit sys unit state => exact rowsN18.decode_reportBits (by decide) toSys toUnit sys unit state
  | frameOnSmall sys unit => exact rowsN6.decode_requestBits (by decide) .on sys unit
  | frameOffSmall sys unit => exact rowsN6.decode_requestBits (by decide) .off sys unit
  | frameStateQuerySmall sys unit => exact rowsN6.decode_requestBits (by decide) .query sys unit
  | frameStateInformSmall toSys toUnit sys unit state => exact rowsN6.decode_reportBits (by decide) toSys toUnit sys unit state
  | symBit0 d0 d1 =>
    obtain ⟨hfit, hbit⟩ := symBit0_wf.mp hwf
    simp [encode, decode, decodePulsePair, hfit, hbit]
  | symBit1 d0 d1 =>
    obtain ⟨hfit, hbit⟩ := symBit1_wf.mp hwf
    simp [encode, decode, decodePulsePair, hfit, hbit]
  | symTrailer d0 d1 =>
    obtain ⟨hfit, htrailer⟩ := symTrailer_wf.mp hwf
    simp [encode, decode, decodePulsePair, hfit, htrailer, pairToBit_of_isTrailer htrailer]

/-! ## Encoding what was decoded -/

theorem frameField_lt {n k : Nat} {b : Bits} : frameField n k b < 2 ^ n :=
  calc frameField n k b < 2 ^ ((b.drop (k * n)).take n).length := fromBits_lt _
    _ ≤ 2 ^ n := Nat.pow_le_pow_right (by decide) (by simp)

/-- A field read within the bits is those bits (R51). -/
theorem toBits_frameField {n k : Nat} {b : Bits} (h : (k + 1) * n ≤ b.length) :
    toBits n (frameField n k b) = (b.drop (k * n)).take n := by
  have hlen : ((b.drop (k * n)).take n).length = n := by
    rw [Nat.succ_mul] at h
    simp; omega
  have hfield := toBits_fromBits ((b.drop (k * n)).take n)
  rwa [hlen] at hfield

/-- The bits up to field `k`, and field `k` behind them. -/
theorem take_append_field (n k : Nat) (b : Bits) : b.take (k * n) ++ (b.drop (k * n)).take n = b.take ((k + 1) * n) := by
  rw [Nat.succ_mul, List.take_add]

theorem headerBits_frameField {n : Nat} {b : Bits} (h : 4 * n ≤ b.length) :
    headerBits n (frameField n 0 b) (frameField n 1 b) (frameField n 2 b) (frameField n 3 b) = b.take (4 * n) := by
  rw [headerBits, toBits_frameField (by omega), toBits_frameField (by omega), toBits_frameField (by omega), toBits_frameField (by omega),
    ← take_append_field n 3, ← take_append_field n 2, ← take_append_field n 1, ← take_append_field n 0]
  simp

theorem informBits_frameField {n : Nat} {b : Bits} (h : 6 * n + 1 ≤ b.length) :
    informBits n (frameField n 0 b) (frameField n 1 b) (frameField n 2 b) (frameField n 3 b) (frameField n 4 b) (frameField n 5 b)
      (frameState n b) = b.take (6 * n + 1) := by
  have hstate : frameState n b = b[6 * n]'h := List.getD_eq_getElem _ _ h
  rw [informBits, headerBits_frameField (by omega), toBits_frameField (by omega), toBits_frameField (by omega),
    take_append_field n 4, take_append_field n 5, hstate, List.take_concat_get']

theorem FrameRows.encode_of_decode {n : Nat} (rows : FrameRows n) {b : Bits} {i : Instr} (h : rows.decode b = .ok i) :
    (∃ r sys unit, i = rows.request r sys unit ∧ Instr.requestBits n r.rowCode sys.toNat unit.toNat = b.take (4 * n)) ∨
    (∃ toSys toUnit sys unit state, i = rows.report toSys toUnit sys unit state ∧
      Instr.reportBits n toSys.toNat toUnit.toNat sys.toNat unit.toNat state = b.take (6 * n + 1)) := by
  obtain ⟨hproto, ⟨r, hlen, hcmd, rfl⟩ | ⟨hlen, hcmd, rfl⟩⟩ := rows.decode_ok h
  · refine .inl ⟨_, _, _, rfl, ?_⟩
    rw [← headerBits_frameField hlen, hproto, hcmd]
    simp [Instr.requestBits, Nat.mod_eq_of_lt frameField_lt]
  · refine .inr ⟨_, _, _, _, _, rfl, ?_⟩
    rw [← informBits_frameField hlen, hproto, hcmd]
    simp [Instr.reportBits, Nat.mod_eq_of_lt frameField_lt]

theorem encode_decodeHostOp (k : BitVec 2) : encode (decodeHostOp k) = .hostOp k := by
  rcases code2_cases k with rfl | rfl | rfl | rfl <;> rfl

theorem encode_decodeReqCmd (k : BitVec 2) : encode (decodeReqCmd k) = .reqCmd k := by
  rcases code2_cases k with rfl | rfl | rfl | rfl <;> rfl

theorem encode_decodeStatus (k : BitVec 3) : encode (decodeStatus k) = .status k := by
  revert k
  decide

theorem encode_decodeReason {k : BitVec 3} {i : Instr} (h : decodeReason k = .ok i) : encode i = .reason k := by
  have key : ∀ k : BitVec 3, ∀ i ∈ (decodeReason k).toOption, encode i = .reason k := by decide
  exact key k i (by simp [h, Except.toOption])

theorem encode_decodePulsePair {c : Config} {d0 d1 : Nat} {i : Instr} (h : decodePulsePair c d0 d1 = .ok i) :
    encode i = .pulsePair d0 d1 := by
  unfold decodePulsePair at h
  split at h
  · cases h
  · split at h
    · cases h; rfl
    · cases h; rfl
    · split at h <;> cases h
      rfl

/-- Settles O12: the code of a row is its value again; a frame is the bits of its fields, and what stands behind them is surplus. -/
theorem encodeOfDecodeIsTheCode : Obligations.EncodeOfDecodeIsTheCode := by
  intro c k i h
  cases k with
  | hostOp k => cases h; exact encode_decodeHostOp k
  | reqCmd k => cases h; exact encode_decodeReqCmd k
  | status k => cases h; exact encode_decodeStatus k
  | reason k => exact encode_decodeReason h
  | pulsePair d0 d1 => exact encode_decodePulsePair h
  | frameN18 b =>
    rcases rowsN18.encode_of_decode h with ⟨r, sys, unit, rfl, hbits⟩ | ⟨toSys, toUnit, sys, unit, state, rfl, hbits⟩
    · exact ⟨_, _, encode_rowsN18_request r sys unit, by rw [hbits, List.take_append_drop]⟩
    · exact ⟨_, _, rfl, by rw [hbits, List.take_append_drop]⟩
  | frameN6 b =>
    rcases rowsN6.encode_of_decode h with ⟨r, sys, unit, rfl, hbits⟩ | ⟨toSys, toUnit, sys, unit, state, rfl, hbits⟩
    · exact ⟨_, _, encode_rowsN6_request r sys unit, by rw [hbits, List.take_append_drop]⟩
    · exact ⟨_, _, rfl, by rw [hbits, List.take_append_drop]⟩

/-- Settles O13: seven fixed words, evaluated. -/
theorem wordsOfTheTableDecode : Obligations.WordsOfTheTableDecode :=
  ⟨by decide, by decide, by decide, by decide, by decide, by decide, by decide⟩

/-! ## READ_FIELD -/

theorem readField_of_le {b : Bits} {cur w : Nat} (h : cur + w ≤ b.length) :
    readField b cur w = some (fromBits ((b.drop cur).take w), cur + w) :=
  if_pos h

/-- Settles O23: the field is cut out between `pre` and `post`. -/
theorem readFieldReadsAtTheCursor : Obligations.ReadFieldReadsAtTheCursor := by
  intro pre field post w
  refine ⟨?_, fun hw => ?_, fromBits_lt field⟩
  · rw [readField_of_le (by simp), List.append_assoc, List.drop_left, List.take_left]
  · rw [readField_eq_none, List.length_append]
    omega

/-! ## The frame decoders in terms of the fields -/

theorem readField_field {n k : Nat} {b : Bits} (h : (k + 1) * n ≤ b.length) :
    readField b (k * n) n = some (frameField n k b, (k + 1) * n) := by
  rw [Nat.succ_mul] at h ⊢
  exact readField_of_le h

/-- With a whole header there, reading stops at a foreign protocol id or gives the four fields (R50, R82). -/
theorem readHeader_of_le {c : Config} {b : Bits} (h : 4 * c.idBits ≤ b.length) :
    readHeader c b =
      if frameField c.idBits 0 b = c.protocolId then
        (some ⟨frameField c.idBits 0 b, frameField c.idBits 1 b, frameField c.idBits 2 b, frameField c.idBits 3 b⟩, 4 * c.idBits)
      else (none, c.idBits) := by
  have h0 : readField b 0 c.idBits = some (frameField c.idBits 0 b, c.idBits) := by
    simpa using readField_field (n := c.idBits) (k := 0) (b := b) (by omega)
  have h1 : readField b c.idBits c.idBits = some (frameField c.idBits 1 b, 2 * c.idBits) := by
    simpa using readField_field (n := c.idBits) (k := 1) (b := b) (by omega)
  have h2 : readField b (2 * c.idBits) c.idBits = some (frameField c.idBits 2 b, 3 * c.idBits) := readField_field (by omega)
  have h3 : readField b (3 * c.idBits) c.idBits = some (frameField c.idBits 3 b, 4 * c.idBits) := readField_field (by omega)
  simp only [readHeader, h0, h1, h2, h3, ne_eq, ite_not]

/-- With a whole report there, the payload is the fifth and the sixth field and the bit behind them (R53, R85). -/
theorem readPayload_of_le {c : Config} {b : Bits} (h : 6 * c.idBits + 1 ≤ b.length) :
    readPayload c b (4 * c.idBits) =
      (some ⟨frameField c.idBits 4 b, frameField c.idBits 5 b, frameState c.idBits b⟩, 6 * c.idBits + 1) := by
  have h4 : readField b (4 * c.idBits) c.idBits = some (frameField c.idBits 4 b, 5 * c.idBits) := readField_field (by omega)
  have h5 : readField b (5 * c.idBits) c.idBits = some (frameField c.idBits 5 b, 6 * c.idBits) := readField_field (by omega)
  have hstate : (b.drop (6 * c.idBits)).take 1 = [frameState c.idBits b] := by
    rw [frameState, List.getD_eq_getElem _ _ h, List.drop_eq_getElem_cons h, List.take_succ_cons, List.take_zero]
  simp only [readPayload, h4, h5, readField_of_le h, hstate]
  cases frameState c.idBits b <;> rfl

theorem frameField_append {n k : Nat} {b : Bits} (surplus : Bits) (h : (k + 1) * n ≤ b.length) :
    frameField n k (b ++ surplus) = frameField n k b := by
  rw [Nat.succ_mul] at h
  rw [frameField, List.drop_append_of_le_length (by omega), List.take_append_of_le_length (by simp; omega), frameField]

theorem frameState_append {n : Nat} {b : Bits} (surplus : Bits) (h : 6 * n + 1 ≤ b.length) :
    frameState n (b ++ surplus) = frameState n b :=
  List.getD_append _ _ _ _ h

theorem readHeader_append {c : Config} {b : Bits} (surplus : Bits) (h : 4 * c.idBits ≤ b.length) :
    readHeader c (b ++ surplus) = readHeader c b := by
  rw [readHeader_of_le h, readHeader_of_le (by simp; omega), frameField_append surplus (by omega), frameField_append surplus (by omega),
    frameField_append surplus (by omega), frameField_append surplus (by omega)]

theorem readPayload_append {c : Config} {b : Bits} (surplus : Bits) (h : 6 * c.idBits + 1 ≤ b.length) :
    readPayload c (b ++ surplus) (4 * c.idBits) = readPayload c b (4 * c.idBits) := by
  rw [readPayload_of_le h, readPayload_of_le (by simp; omega), frameField_append surplus (by omega), frameField_append surplus (by omega),
    frameState_append surplus h]

theorem decodeFrame_append {c : Config} {b : Bits} (surplus : Bits) (h : 4 * c.idBits ≤ b.length) :
    decodeFrame c (b ++ surplus) = decodeFrame c b := by
  rw [decodeFrame, readHeader_append surplus h, decodeFrame]

theorem decodeStateInform_append {c : Config} {b : Bits} (surplus : Bits) (h : 6 * c.idBits + 1 ≤ b.length) :
    decodeStateInform c (b ++ surplus) (4 * c.idBits) = decodeStateInform c b (4 * c.idBits) := by
  rw [decodeStateInform, readPayload_append surplus h, decodeStateInform]

/-- DECODE_INCOMING behind the pulse layer: an accepted frame, then its payload behind the header (R98). -/
theorem decodeReport_eq (c : Config) (b : Bits) :
    decodeReport c b =
      (decodeFrame c b).1.bind fun f =>
        if accepted c f then (decodeStateInform c b (4 * c.idBits)).1.map reportMessage else none := by
  rcases hd : decodeFrame c b with ⟨_ | f, k⟩
  · simp [decodeReport, hd]
  · obtain ⟨rfl, _⟩ := decodeFrame_some_cursor hd
    rcases hp : decodeStateInform c b (4 * c.idBits) with ⟨_ | p, k⟩ <;> simp [decodeReport, hd, hp]

/-- Settles O27: whatever the decoders read, they read from the fields. -/
theorem surplusBitsAreIgnored : Obligations.SurplusBitsAreIgnored := by
  intro c b surplus
  refine ⟨decodeFrame_append surplus, fun h => ⟨decodeStateInform_append surplus h, ?_⟩⟩
  rw [decodeReport_eq, decodeReport_eq, decodeFrame_append surplus (by omega), decodeStateInform_append surplus h]

/-! ## Trains of reports -/

/-- A report is a header with its payload behind it (R53). -/
theorem informBits_eq (n proto toSys toUnit cmd sys unit : Nat) (state : Bool) :
    informBits n proto toSys toUnit cmd sys unit state =
      headerBits n proto toSys toUnit cmd ++ (toBits n sys ++ (toBits n unit ++ [state])) := by
  simp [informBits]

/-- PULSE_DECODE reads back what PULSE_ENCODE writes (R79). -/
theorem pulseDecode_pulseEncode {c : Config} (h : c.Legal) {b : Bits} (hb : b ≠ []) : pulseDecode c (pulseEncode c b) false = some b := by
  have hpos := List.length_pos_iff.mpr hb
  have htrailer : isTrailer c c.pulseHigh c.pulseFooter = true := isTrailer_iff.mpr ⟨classify_pulseHigh h, classify_pulseFooter h⟩
  have hends : endsInTrailer c (pulseEncode c b) = true := (endsInTrailer_append c _ _ _).trans htrailer
  have hdata : dataPulses (pulseEncode c b) = b.flatMap (bitToPair c) := by
    rw [dataPulses, pulseEncode_length]
    exact List.take_left' (by simp [Nat.mul_comm])
  have hwhole : trainIsWhole c (pulseEncode c b) false = true := by simp [trainIsWhole, hends]; omega
  simp [pulseDecode, hwhole, hdata, readPairs_flatMap h]

section Report

variable {c : Config} {toSys toUnit cmd sys unit : Nat}

/-- DECODE_FRAME at a header of this protocol: the frame, if it may stand in the frame registers (R82, R83). -/
theorem decodeFrame_headerBits (h : c.Legal) (hsys : toSys < 2 ^ c.idBits) (hunit : toUnit < 2 ^ c.idBits) (hcmd : cmd < 2 ^ c.idBits)
    (post : Bits) :
    decodeFrame c (headerBits c.idBits c.protocolId toSys toUnit cmd ++ post) =
      (if Frame.acceptable c ⟨c.protocolId, toSys, toUnit, cmd⟩ then some ⟨c.protocolId, toSys, toUnit, cmd⟩ else none,
        4 * c.idBits) := by
  have hproto : c.protocolId < 2 ^ c.idBits := by
    obtain ⟨_, _, hle, _⟩ := h
    have := Nat.two_pow_pos c.idBits
    omega
  rw [decodeFrame, readHeader_headerBits c post rfl hproto hsys hunit hcmd]
  simp only
  split <;> rfl

/-- DECODE_STATE_INFORM behind the header of a report: the payload, if both of its addresses are in range (R83, R85). -/
theorem decodeStateInform_informBits (hsys : sys < 2 ^ c.idBits) (hunit : unit < 2 ^ c.idBits) (proto : Nat) (state : Bool) (post : Bits) :
    decodeStateInform c (informBits c.idBits proto toSys toUnit cmd sys unit state ++ post) (4 * c.idBits) =
      (if sys ≤ c.idMax ∧ unit ≤ c.idMax then some ⟨sys, unit, state⟩ else none, 6 * c.idBits + 1) := by
  have hread := readPayload_bits c (headerBits c.idBits proto toSys toUnit cmd) post state hsys hunit
  rw [headerBits_length, show 4 * c.idBits + 2 * c.idBits + 1 = 6 * c.idBits + 1 by omega] at hread
  rw [decodeStateInform, informBits, hread]
  simp only [Payload.acceptable_iff]
  split <;> rfl

/-- A report is accepted exactly when both destinations are BROADCAST (R100). -/
theorem accepted_report (h : c.Legal) (proto : Nat) :
    accepted c ⟨proto, toSys, toUnit, c.cmdStateInform⟩ = true ↔ toSys = c.broadcast ∧ toUnit = c.broadcast := by
  simp [accepted, commandOf_inform h]

end Report

/-- Settles O40: the train gives the bits, the bits their fields, and only the destinations can keep the report from being accepted. -/
theorem reportsAreDecodedExactlyWhenBroadcast : Obligations.ReportsAreDecodedExactlyWhenBroadcast := by
  intro c toSys toUnit sys unit state surplus hc hts htu hs hu
  have hcmd : c.cmdStateInform < 2 ^ c.idBits := by
    obtain ⟨_, _, _, ⟨_, hle⟩, _⟩ := hc
    have := hle c.cmdStateInform (by simp)
    have := Nat.two_pow_pos c.idBits
    omega
  have hacc : Frame.acceptable c ⟨c.protocolId, toSys, toUnit, c.cmdStateInform⟩ = true :=
    Frame.acceptable_iff.mpr ⟨rfl, hts, htu, by simp [commandOf_inform hc]⟩
  have hframe := decodeFrame_headerBits hc (legal_address hc hts).1 (legal_address hc htu).1 hcmd
    (toBits c.idBits sys ++ (toBits c.idBits unit ++ [state]) ++ surplus)
  rw [← List.append_assoc, ← informBits_eq, if_pos hacc] at hframe
  rw [decodeIncoming, pulseDecode_pulseEncode hc (by simp [informBits])]
  simp only
  rw [decodeReport_eq, hframe, decodeStateInform_informBits (legal_address hc hs).1 (legal_address hc hu).1, if_pos ⟨hs, hu⟩]
  simp [accepted_report hc, reportMessage]

/-! ## Addresses -/

/-- Settles O16: PARSE_ADDRESS checks the tag and the length, and its digit loop reads the radix-64 value of the characters. -/
theorem parseAcceptsExactlyThePattern : Obligations.ParseAcceptsExactlyThePattern := by
  intro c s v
  rw [parseAddress_some]
  constructor
  · rintro ⟨e, rfl, h1, h5, hdigits, hv⟩
    obtain ⟨ds, hlt, rfl, rfl⟩ := parseDigits_some.mp hdigits
    exact ⟨hv, ds, by simpa using h1, by simpa using h5, hlt, rfl, rfl⟩
  · rintro ⟨hv, ds, h1, h5, hlt, rfl, rfl⟩
    exact ⟨ds.map digitChar, rfl, by simpa using h1, by simpa using h5, parseDigits_some.mpr ⟨ds, hlt, rfl, rfl⟩, hv⟩

/-- The third character is the first digit. -/
theorem tag_append_getElem?_two (e : Text) : ([0x30#8, 0x61#8] ++ e)[2]? = e[0]? := rfl

theorem formatAddress_zero : formatAddress 0 = [0x30#8, 0x61#8, 0x30#8] := by decide

/-- Settles O17: FORMAT_ADDRESS writes the tag and one to five digits, the first of them not `0` but for the Address 0. -/
theorem formatIsCanonical : Obligations.FormatIsCanonical := by
  intro c a hc ha
  obtain ⟨e, he, h1, h5, _, hzero⟩ := formatAddress_spec (legal_address hc ha).2
  rw [he, tag_append_getElem?_two]
  simp only [List.length_append, List.length_cons, List.length_nil]
  exact ⟨by omega, by omega, rfl, hzero, formatAddress_zero⟩

/-- The digit loop's value is Mathlib's, whose digits stand in the other order (R45). -/
theorem foldl_radix_eq_ofDigits (ds : List Nat) : ds.foldl (fun a d => a * 64 + d) 0 = Nat.ofDigits 64 ds.reverse := by
  rw [Nat.ofDigits_eq_foldr, List.foldr_reverse]
  congr 1
  funext a d
  simp; omega

/-- A digit string without a leading `0` is the digits of its value, so it is the only such string of that value (R45, R46). -/
theorem parseDigits_canonical {e : Text} {a : Nat} (h : parseDigits 0 e = some a) (h0 : e[0]? ≠ some 0x30#8) :
    e = (Nat.digits 64 a).reverse.map digitChar := by
  obtain ⟨ds, hlt, rfl, rfl⟩ := parseDigits_some.mp h
  have hlast : ∀ hne : ds.reverse ≠ [], ds.reverse.getLast hne ≠ 0 := by
    intro hne hz
    cases ds with
    | nil => exact hne rfl
    | cons d ds =>
      obtain rfl : d = 0 := by simpa using hz
      exact h0 rfl
  rw [foldl_radix_eq_ofDigits, Nat.digits_ofDigits 64 (by decide) _ (by simpa using hlt) hlast, List.reverse_reverse]

/-- Settles O18: two strings without a leading `0` and of one value are the same string, and the only other string echoed is that of 0. -/
theorem echoEqualsCanonicalStringsOnly : Obligations.EchoEqualsCanonicalStringsOnly := by
  intro c s a hc hparse
  obtain ⟨e, rfl, h1, _, hdigits, ha⟩ := parseAddress_some.mp hparse
  obtain ⟨f, hf, _, _, hdigits', hzero⟩ := formatAddress_spec (legal_address hc ha).2
  rw [tag_append_getElem?_two]
  constructor
  · intro hecho
    by_cases hlead : e[0]? = some 0x30#8
    · have hfe : f = e := List.append_cancel_left (hf.symm.trans hecho)
      obtain rfl : a = 0 := hzero.mp (hfe ▸ hlead)
      exact .inr (hecho.symm.trans formatAddress_zero)
    · exact .inl hlead
  · rintro (hlead | hs)
    · have he := parseDigits_canonical hdigits hlead
      have ha0 : a ≠ 0 := by
        rintro rfl
        simp [he] at h1
      rw [hf, he, parseDigits_canonical hdigits' (mt hzero.mp ha0)]
    · obtain rfl : e = [0x30#8] := List.append_cancel_left (as := [0x30#8, 0x61#8]) hs
      have hz : parseDigits 0 [0x30#8] = some 0 := by decide
      obtain rfl := Option.some.inj (hz.symm.trans hdigits)
      exact formatAddress_zero

/-! ## A row inside the running operation -/

section whileBusy

variable {s : State} {decoding encoding : Host.Outcome State Fault Refusal}

/-- What DECODE and ENCODE do not share with the other two operations is passed over by those, and by an idle block (R4, R64). -/
theorem whileBusy_passed (h : s.busy = false ∨ s.opRun = 0#2 ∨ s.opRun = 3#2) :
    whileBusy s (match s.opRun.toNat with | 1 => decoding | 2 => encoding | _ => .next s) = .next s := by
  rcases h with hb | ho | ho
  · exact whileBusy_idle hb _
  all_goals
    rw [ho, whileBusy]
    exact ite_self _

theorem whileBusy_insideDecode (hb : s.busy = true) (ho : s.opRun = 1#2) :
    whileBusy s (match s.opRun.toNat with | 1 => decoding | 2 => encoding | _ => .next s) = decoding := by
  rw [ho]
  exact whileBusy_busy hb _

theorem whileBusy_insideEncode (hb : s.busy = true) (ho : s.opRun = 2#2) :
    whileBusy s (match s.opRun.toNat with | 1 => decoding | 2 => encoding | _ => .next s) = encoding := by
  rw [ho]
  exact whileBusy_busy hb _

end whileBusy

/-! ## FRAME rows and codes that are no row, outside their path -/

theorem frameRequest_foreign {n : Nat} {s : State} (hb : s.busy = true) (ho : s.opRun = 2#2) (hl : ¬ s.cfg.TableLayout n) (k : Nat)
    (r : Request) (sys unit : Nat) : frameRequest n k r sys unit s = .refused .foreignFrame :=
  (whileBusy_insideEncode hb ho).trans (if_pos hl)

theorem pairFits_iff {c : Config} {d0 d1 : Nat} : Instr.pairFits c d0 d1 = true ↔ d0 < 2 ^ c.durWidth ∧ d1 < 2 ^ c.durWidth := by
  simp [Instr.pairFits]

/-- A pair that is no row and fits the port goes to the running operation (U14). -/
theorem unlistedPair_of_fits {s : State} {d0 d1 : Nat} (h0 : d0 < 2 ^ s.cfg.durWidth) (h1 : d1 < 2 ^ s.cfg.durWidth) :
    unlistedPair d0 d1 s = whileBusy s (match s.opRun.toNat with | 1 => readPair d0 d1 s | 2 => .refused .noSymbol | _ => .next s) :=
  if_pos (pairFits_iff.mpr ⟨h0, h1⟩)

/-- Settles O46: each of these rows and codes is read by DECODE, built, written or refused by ENCODE, and passed over elsewhere. -/
theorem frameRowsOutsideTheirPath : Obligations.FrameRowsOutsideTheirPath := by
  constructor
  · intro s a b x y a' b' x' y' state d0 d1 hb
    refine ⟨fun ho => ⟨whileBusy_insideEncode hb ho, whileBusy_insideEncode hb ho, fun hl i hi => ?_, fun hl i hi => ?_⟩, fun ho i hi => ?_⟩
    · simp only [List.mem_cons, List.not_mem_nil, or_false] at hi
      rcases hi with rfl | rfl | rfl <;> exact frameRequest_foreign hb ho hl _ _ _ _
    · simp only [List.mem_cons, List.not_mem_nil, or_false] at hi
      rcases hi with rfl | rfl | rfl <;> exact frameRequest_foreign hb ho hl _ _ _ _
    · simp only [List.mem_cons, List.not_mem_nil, or_false] at hi
      rcases hi with rfl | rfl | rfl | rfl | rfl | rfl | rfl | rfl | rfl | rfl | rfl <;> exact whileBusy_passed (.inr ho)
  · intro s bs d0 d1
    refine ⟨fun hb ho => ⟨whileBusy_insideEncode hb ho, whileBusy_insideEncode hb ho, fun h0 h1 => ?_⟩,
      fun h => ⟨whileBusy_passed h, whileBusy_passed h, fun h0 h1 => ?_⟩, fun h => ?_⟩
    · exact (unlistedPair_of_fits h0 h1).trans (whileBusy_insideEncode hb ho)
    · exact (unlistedPair_of_fits h0 h1).trans (whileBusy_passed h)
    · exact if_neg (by rw [pairFits_iff]; omega)

/-! ## Symbols inside DECODE and ENCODE -/

theorem readPair_of_some {d0 d1 : Nat} {b : Bool} {s : State} (h : pairToBit s.cfg d0 d1 = some b) :
    readPair d0 d1 s =
      if s.bits.length < s.cfg.bitCap then .next { s with bits := s.bits ++ [b], pulseIdx := s.pulseIdx + 1 }
      else .fault .appendBeyondCapacity := by
  simp [readPair, h]

/-- Settles O47: a bit symbol is a turn of the pair loop, and a trailer behind a bit is accepted. -/
theorem symbolsAreReadInsideDecode : Obligations.SymbolsAreReadInsideDecode := by
  intro s d0 d1 hb ho
  refine ⟨fun hwf => ?_, fun hwf => ?_, fun hwf hbits => ?_⟩
  · obtain ⟨_, hbit⟩ := symBit0_wf.mp hwf
    exact (bitSymbol_insideDecode hb ho false d0 d1).trans (readPair_of_some hbit)
  · obtain ⟨_, hbit⟩ := symBit1_wf.mp hwf
    exact (bitSymbol_insideDecode hb ho true d0 d1).trans (readPair_of_some hbit)
  · obtain ⟨_, htrailer⟩ := symTrailer_wf.mp hwf
    exact (trailerSymbol_insideDecode hb ho d0 d1).trans (by simp [readTrailer, htrailer, hbits])

theorem writePulses_room {p : Train} {n : Nat} {s : State} (h : s.pout.length + p.length ≤ s.cfg.poutCap) :
    writePulses p n s = .next { s with pout := s.pout ++ p, pulseIdx := s.pulseIdx + n } :=
  if_pos h

theorem writePulses_full {p : Train} {n : Nat} {s : State} (h : s.cfg.poutCap < s.pout.length + p.length) :
    writePulses p n s = .fault .appendBeyondCapacity :=
  if_neg (by omega)

/-- Settles O48: each symbol is an append of two pulses. -/
theorem symbolsAreWrittenInsideEncode : Obligations.SymbolsAreWrittenInsideEncode := by
  intro s d0 d1 hb ho
  have hbit : ∀ b, bitSymbol b d0 d1 s = writePulses (bitToPair s.cfg b) 1 s := fun b => whileBusy_insideEncode hb ho
  have htrailer : trailerSymbol d0 d1 s = writePulses (trailer s.cfg) 0 s := whileBusy_insideEncode hb ho
  refine ⟨fun h => ⟨?_, ?_, ?_⟩, fun h i hi => ?_⟩
  · exact (hbit false).trans (writePulses_room h)
  · exact (hbit true).trans (writePulses_room h)
  · exact htrailer.trans (writePulses_room h)
  · simp only [List.mem_cons, List.not_mem_nil, or_false] at hi
    rcases hi with rfl | rfl | rfl
    · exact (hbit false).trans (writePulses_full h)
    · exact (hbit true).trans (writePulses_full h)
    · exact htrailer.trans (writePulses_full h)

/-! ## Outcomes and reasons -/

section endInSuccess

variable {s : State}

theorem endInSuccess_insideValidate (hb : s.busy = true) (ho : s.opRun = 0#2) : endInSuccess s = .next (succeed s) := by
  simp [endInSuccess, whileBusy_busy hb, ho]

theorem endInSuccess_insideDecode {p : Payload} (hb : s.busy = true) (ho : s.opRun = 1#2) (hp : s.payload = some p) :
    endInSuccess s = .next (deliverReport p s) := by
  simp [endInSuccess, whileBusy_busy hb, ho, hp]

theorem endInSuccess_insideEncode {sys unit : Nat} {r : Request} (hb : s.busy = true) (ho : s.opRun = 2#2) (hs : s.aSys = some sys)
    (hu : s.aUnit = some unit) (hr : requestOf s.reqCmd = some r) : endInSuccess s = .next (deliverRequest r sys unit s) := by
  simp [endInSuccess, whileBusy_busy hb, ho, hs, hu, hr]

end endInSuccess

/-- Settles O51: ST_OK is the successful end of the operation that runs. -/
theorem successRowWritesTheOutputs : Obligations.SuccessRowWritesTheOutputs := by
  intro s hb unchanged
  refine ⟨fun ho => ?_, fun p ho hp => ?_, fun sys unit r ho hs hu hr => ?_, whileBusy_busy hb _⟩
  · refine ⟨_, endInSuccess_insideValidate hb ho, ?_⟩
    simp [unchanged, State.EndedIn, State.SameInputs, State.SameWorking, State.SameSchedule]
  · refine ⟨_, endInSuccess_insideDecode hb ho hp, ?_⟩
    simp [unchanged, State.EndedIn, State.HoldsMessage, State.SameInputs, State.SameWorking, State.SameSchedule]
  · refine ⟨_, endInSuccess_insideEncode hb ho hs hu hr, ?_⟩
    simp [unchanged, State.EndedIn, State.HoldsMessage, State.SameInputs, State.SameWorking, State.SameSchedule]

/-- With a reason recorded, ST_ERR_ARG ends an encode (R115). -/
theorem execStErrArg_insideEncode {s : State} (hb : s.busy = true) (ho : s.opRun = 2#2) (hr : s.reason ≠ .none) :
    execStErrArg s = .next (failWith .errArg s) := by
  simp [execStErrArg, endInFailure, whileBusy_busy hb, ho, hr, Status.raisedBy]

/-- Settles O54: the six rows record their reason, which the failing end then keeps. -/
theorem reasonsAreRecordedAndReported : Obligations.ReasonsAreRecordedAndReported := by
  constructor
  · intro s i r hb hi
    refine ⟨?_, fun hr ho => ?_⟩
    · have hrow : recordReason r s = .next { s with reason := r } := whileBusy_busy hb _
      simp only [List.mem_cons, List.not_mem_nil, or_false, Prod.mk.injEq] at hi
      rcases hi with ⟨rfl, rfl⟩ | ⟨rfl, rfl⟩ | ⟨rfl, rfl⟩ | ⟨rfl, rfl⟩ | ⟨rfl, rfl⟩ | ⟨rfl, rfl⟩ <;> exact hrow
    · refine ⟨_, execStErrArg_insideEncode (s := { s with reason := r }) hb ho hr, ?_⟩
      simp [State.EndedIn, State.OutputsClear]
  · rintro s c (rfl | rfl) <;> exact ⟨rfl, rfl⟩

/-! ## Frames inside DECODE -/

/-- `s` with the registers that the frame layer of a decode writes, before the operation ends (R75, R82, R85). -/
def State.withDecoded (s : State) (b : Bits) (f : Option Frame) (p : Option Payload) (k : Nat) : State :=
  { s with bits := b, pulseIdx := b.length, frame := f, payload := p, cur := k }

section readGivenFrame

variable {b : Bits} {s : State} {f : Frame} {k k' : Nat}

theorem readGivenFrame_noFrame (hlen : b.length ≤ s.cfg.bitCap) (hf : decodeFrame s.cfg b = (none, k)) :
    readGivenFrame b s = failWith .noMatch (s.withDecoded b none s.payload k) := by
  simp [readGivenFrame, hlen, readFrame, hf, State.withDecoded]

theorem readGivenFrame_rejected (hlen : b.length ≤ s.cfg.bitCap) (hf : decodeFrame s.cfg b = (some f, k))
    (ha : accepted s.cfg f = false) : readGivenFrame b s = failWith .noMatch (s.withDecoded b (some f) s.payload k) := by
  simp [readGivenFrame, hlen, readFrame, hf, ha, State.withDecoded]

theorem readGivenFrame_noPayload (hlen : b.length ≤ s.cfg.bitCap) (hf : decodeFrame s.cfg b = (some f, k))
    (ha : accepted s.cfg f = true) (hp : decodeStateInform s.cfg b k = (none, k')) :
    readGivenFrame b s = failWith .noMatch (s.withDecoded b (some f) none k') := by
  simp [readGivenFrame, hlen, readFrame, hf, ha, readReport, hp, State.withDecoded]

theorem readGivenFrame_report {p : Payload} (hlen : b.length ≤ s.cfg.bitCap) (hf : decodeFrame s.cfg b = (some f, k))
    (ha : accepted s.cfg f = true) (hp : decodeStateInform s.cfg b k = (some p, k')) :
    readGivenFrame b s = deliverReport p (s.withDecoded b (some f) (some p) k') := by
  simp [readGivenFrame, hlen, readFrame, hf, ha, readReport, hp, State.withDecoded]

end readGivenFrame

/-- What an end in ST_NOMATCH behind the frame layer leaves (R121): only the registers of the decode path are written. -/
theorem noMatch_withDecoded {s t : State} {b : Bits} {f : Option Frame} {p : Option Payload} {k : Nat}
    (ht : t = failWith .noMatch (s.withDecoded b f p k)) :
    t.EndedIn .noMatch ∧ t.OutputsClear ∧ t.reason = .none ∧ t.bits = b ∧ t.frame = f ∧ t.payload = p ∧ t.cur = k ∧
      t.pulseIdx = b.length ∧ s.SameElsewhere t ∧ s.SameInputs t ∧ s.SameSchedule t := by
  subst ht
  simp [State.withDecoded, State.EndedIn, State.OutputsClear, State.SameElsewhere, State.SameInputs, State.SameSchedule]

/-- What a delivered report leaves (R101, R112): beside the registers of the decode path, the message. -/
theorem deliverReport_withDecoded {s t : State} {b : Bits} {f : Option Frame} {p : Payload} {k : Nat}
    (ht : t = deliverReport p (s.withDecoded b f (some p) k)) :
    t.EndedIn .ok ∧ t.HoldsMessage ⟨formatAddress p.sys, formatAddress p.unit, some p.state⟩ ∧ t.repeatCount = s.repeatCount ∧
      t.pout = s.pout ∧ t.reason = .none ∧ t.bits = b ∧ t.frame = f ∧ t.payload = some p ∧ t.cur = k ∧ t.pulseIdx = b.length ∧
      s.SameElsewhere t ∧ s.SameInputs t ∧ s.SameSchedule t := by
  subst ht
  simp [State.withDecoded, State.EndedIn, State.HoldsMessage, State.SameElsewhere, State.SameInputs, State.SameSchedule]

/-! ## Frames of the table's layout -/

section TableLayout

variable {c : Config} {n : Nat} (hc : c.Legal) (hl : c.TableLayout n)
include hc hl

theorem two_le_of_layout : 2 ≤ n := by
  obtain ⟨⟨h2, _⟩, _⟩ := hc
  obtain ⟨rfl, _⟩ := hl
  exact h2

/-- DECODE_FRAME at the header of a row: the frame, if it may stand in the frame registers. -/
theorem decodeFrame_row {a u k : Nat} (ha : a < 2 ^ n) (hu : u < 2 ^ n) (hk : k < 2 ^ n) (post : Bits) :
    decodeFrame c (headerBits n 1 a u k ++ post) = (if Frame.acceptable c ⟨1, a, u, k⟩ then some ⟨1, a, u, k⟩ else none, 4 * n) := by
  obtain ⟨rfl, hproto, _⟩ := hl
  have h := decodeFrame_headerBits hc ha hu hk post
  rwa [hproto] at h

theorem commandOf_rowCode_isSome (r : Request) : (commandOf c r.rowCode).isSome = true := by
  rw [← Request.code_of_layout hl, commandOf_code hc]
  rfl

/-- The dispatcher accepts no request as a report (R100). -/
theorem accepted_request (r : Request) (a u : Nat) : accepted c ⟨1, a, u, r.rowCode⟩ = false := by
  rw [← Request.code_of_layout hl, accepted, commandOf_code hc]
  cases r <;> rfl

theorem commandOf_three : commandOf c 3 = some .stateInform := by
  have h := commandOf_inform hc
  obtain ⟨_, _, _, _, _, hcmd⟩ := hl
  rwa [hcmd] at h

omit hc in
/-- A row's header may stand in the frame registers when both of its addresses are in range (R83). -/
theorem acceptable_row {a u k : Nat} (hk : (commandOf c k).isSome = true) :
    Frame.acceptable c ⟨1, a, u, k⟩ = true ↔ a ≤ c.idMax ∧ u ≤ c.idMax := by
  obtain ⟨_, hproto, _⟩ := hl
  simp [Frame.acceptable_iff, hproto, hk]

/-- A row's frame fits BITS (R7). -/
theorem row_le_bitCap : 6 * n + 1 ≤ c.bitCap := by
  have h2 := two_le_of_layout hc hl
  obtain ⟨rfl, _⟩ := hl
  rw [Config.bitCap]
  omega

end TableLayout

/-! ## Request rows inside DECODE -/

section Request

variable {s : State} {n a u : Nat} (hc : s.cfg.Legal) (hl : s.cfg.TableLayout n)
include hc hl

/-- A request row is read into BITS, and into the frame registers when its addresses are in range; it is never accepted (R82, R83, R100). -/
theorem readGivenFrame_request (ha : a < 2 ^ n) (hu : u < 2 ^ n) (r : Request) :
    readGivenFrame (headerBits n 1 a u r.rowCode) s =
      failWith .noMatch (s.withDecoded (headerBits n 1 a u r.rowCode)
        (if a ≤ s.cfg.idMax ∧ u ≤ s.cfg.idMax then some ⟨1, a, u, r.rowCode⟩ else none) s.payload (4 * n)) := by
  have hlen : (headerBits n 1 a u r.rowCode).length ≤ s.cfg.bitCap := by
    have := row_le_bitCap hc hl
    rw [headerBits_length]
    omega
  have hframe := decodeFrame_row hc hl ha hu (r.rowCode_lt (two_le_of_layout hc hl)) []
  simp only [List.append_nil, acceptable_row hl (commandOf_rowCode_isSome hc hl r)] at hframe
  by_cases h : a ≤ s.cfg.idMax ∧ u ≤ s.cfg.idMax
  · rw [if_pos h] at hframe ⊢
    exact readGivenFrame_rejected hlen hframe (accepted_request hc hl r a u)
  · rw [if_neg h] at hframe ⊢
    exact readGivenFrame_noFrame hlen hframe

/-- A request row inside DECODE ends in ST_NOMATCH, with its frame exactly when its addresses are in range (R62, R82, R100, R121). -/
theorem frameRequest_insideDecode (hb : s.busy = true) (ho : s.opRun = 1#2) (ha : a < 2 ^ n) (hu : u < 2 ^ n) (r : Request) :
    ∃ t, frameRequest n r.rowCode r a u s = .next t ∧ t.EndedIn .noMatch ∧ t.OutputsClear ∧ t.reason = .none ∧
      t.bits = headerBits n 1 a u r.rowCode ∧
      t.frame = (if a ≤ s.cfg.idMax ∧ u ≤ s.cfg.idMax then some ⟨1, a, u, r.rowCode⟩ else none) ∧ t.payload = s.payload ∧
      t.cur = 4 * n ∧ t.pulseIdx = 4 * n ∧ s.SameElsewhere t ∧ s.SameInputs t ∧ s.SameSchedule t := by
  have hend := noMatch_withDecoded (readGivenFrame_request hc hl ha hu r)
  rw [headerBits_length] at hend
  exact ⟨_, whileBusy_insideDecode hb ho, hend⟩

theorem frameRequest_insideDecode_noFrame (hb : s.busy = true) (ho : s.opRun = 1#2) (ha : a < 2 ^ n) (hu : u < 2 ^ n)
    (h : s.cfg.idMax < a ∨ s.cfg.idMax < u) (r : Request) :
    ∃ t, frameRequest n r.rowCode r a u s = .next t ∧ t.EndedIn .noMatch ∧ t.OutputsClear ∧ t.reason = .none ∧
      t.bits = headerBits n 1 a u r.rowCode ∧ t.frame = none ∧ t.payload = s.payload ∧ t.pulseIdx = 4 * n ∧
      s.SameElsewhere t ∧ s.SameInputs t ∧ s.SameSchedule t := by
  obtain ⟨t, ht, hend, hout, hreason, hbits, hframe, hpayload, _, hrest⟩ := frameRequest_insideDecode hc hl hb ho ha hu r
  rw [if_neg (by omega)] at hframe
  exact ⟨t, ht, hend, hout, hreason, hbits, hframe, hpayload, hrest⟩

end Request

/-! ## Frames that are no row, inside DECODE -/

theorem commandOf_eq_stateInform {c : Config} {k : Nat} (h : commandOf c k = some .stateInform) : k = c.cmdStateInform := by
  by_contra hk
  unfold commandOf at h
  split_ifs at h <;> cases h

/-- What DECODE_FRAME constructs are the four fields (R50, R82). -/
theorem decodeFrame_fields {c : Config} {b : Bits} {f : Frame} {k : Nat} (h : decodeFrame c b = (some f, k)) :
    f.proto = frameField c.idBits 0 b ∧ f.cmd = frameField c.idBits 3 b := by
  obtain ⟨rfl, hlen⟩ := decodeFrame_some_cursor h
  have hread := (decodeFrame_some h).2
  rw [readHeader_of_le hlen] at hread
  split at hread <;> cases hread
  exact ⟨rfl, rfl⟩

/-- On an instance of the table's layout, bits that are reported are a row (R53, R98). -/
theorem decode_of_decodeReport {c : Config} {n : Nat} (hl : c.TableLayout n) (rows : FrameRows n) {b : Bits} {m : Message}
    (h : decodeReport c b = some m) : ∃ i, rows.decode b = .ok i := by
  rw [decodeReport_eq] at h
  rcases hf : decodeFrame c b with ⟨_ | f, k⟩
  · simp [hf] at h
  · rcases hp : decodeStateInform c b (4 * c.idBits) with ⟨_ | p, k'⟩
    · simp [hf, hp] at h
    · have hacc : accepted c f = true := by
        by_contra hn
        simp [hf, hn] at h
      simp only [accepted, Bool.and_eq_true, beq_iff_eq] at hacc
      obtain ⟨⟨hcmd, _⟩, _⟩ := hacc
      obtain ⟨hproto, hfcmd⟩ := decodeFrame_fields hf
      obtain ⟨hacceptable, _⟩ := Frame.acceptable_iff.mp (decodeFrame_some hf).1
      obtain ⟨hk, hlen⟩ := decodeStateInform_some_cursor hp
      rw [hproto] at hacceptable
      rw [commandOf_eq_stateInform hcmd] at hfcmd
      obtain ⟨rfl, hone, _, _, _, hthree⟩ := hl
      exact ⟨_, rows.decode_of_report (by omega) (hacceptable.trans hone) (hfcmd.symm.trans hthree)⟩

/-- A frame that is no row ends the decode in ST_NOMATCH; one that BITS cannot hold leaves BITS empty (R62, R75, R84). -/
theorem readGivenFrame_noRow {n : Nat} {s t : State} (hl : s.cfg.TableLayout n) (rows : FrameRows n) {b : Bits} {e : DecodeError}
    (he : rows.decode b = .error e) (ht : t = readGivenFrame b s) :
    t.EndedIn .noMatch ∧ t.OutputsClear ∧ t.reason = .none ∧ s.SameElsewhere t ∧
      (if b.length ≤ s.cfg.bitCap then t.bits = b ∧ t.frame = (decodeFrame s.cfg b).1 ∧ t.pulseIdx = b.length
      else t.bits = [] ∧ t.frame = s.frame ∧ t.payload = s.payload ∧ t.pulseIdx = s.pulseIdx) := by
  rcases readGivenFrame_cases b s with ⟨hlen, hread⟩ | ⟨hlen, hread⟩
  · rw [if_pos hlen]
    have hframe := readFrame_frame { s with bits := b, pulseIdx := b.length }
    rw [← hread, ← ht] at hframe
    rcases readFrame_ends { s with bits := b, pulseIdx := b.length } with ⟨_, p, _, hreport, _⟩ | ⟨f, p, k, _, hend⟩
    · obtain ⟨i, hi⟩ := decode_of_decodeReport hl rows hreport
      rw [he] at hi
      cases hi
    · obtain ⟨hended, hout, hreason, hbits, _, _, _, hidx, helse, _⟩ :=
        noMatch_withDecoded (f := f) (p := p) (k := k) (ht.trans (hread.trans hend))
      exact ⟨hended, hout, hreason, helse, hbits, hframe, hidx⟩
  · rw [if_neg hlen, ht, hread]
    obtain ⟨hended, hout, hreason, hbits, _, hidx, hframe, hpayload, helse, _⟩ := failEmpty_spec s
    exact ⟨hended, hout, hreason, helse, hbits, hframe, hpayload, hidx⟩

/-- Settles O44: a request row is read and not accepted, and what is no row is not reported either. -/
theorem requestFramesReadInsideDecodeAreNoMatch : Obligations.RequestFramesReadInsideDecodeAreNoMatch := by
  intro s hc hb ho refusedBy noFrame
  refine ⟨fun hl sys unit h => ?_, fun hl sys unit h => ?_, fun hl sys unit hs hu => ?_, fun hl sys unit hs hu => ?_,
    fun b k e hk hp he => ?_⟩
  · have hrow := frameRequest_insideDecode_noFrame hc hl hb ho sys.isLt unit.isLt h
    exact ⟨hrow .on, hrow .off, hrow .query⟩
  · have hrow := frameRequest_insideDecode_noFrame hc hl hb ho sys.isLt unit.isLt h
    exact ⟨hrow .on, hrow .off, hrow .query⟩
  · have hrow := frameRequest_insideDecode hc hl hb ho sys.isLt unit.isLt
    simp only [hs, hu, and_self, ↓reduceIte] at hrow
    exact ⟨hrow .on, hrow .off, hrow .query⟩
  · have hrow := frameRequest_insideDecode hc hl hb ho sys.isLt unit.isLt
    simp only [hs, hu, and_self, ↓reduceIte] at hrow
    exact ⟨hrow .on, hrow .off, hrow .query⟩
  · have hstep : step s = .next (readGivenFrame b { s with present := none }) := by
      rw [step_present hc hp, runCode_of_error (by exact he)]
      rcases hk with ⟨_, rfl⟩ | ⟨_, rfl⟩ <;> exact whileBusy_insideDecode (s := { s with present := none }) hb ho
    obtain ⟨n, hl, rows, hrow⟩ : ∃ n, s.cfg.TableLayout n ∧ ∃ rows : FrameRows n, rows.decode b = .error e := by
      rcases hk with ⟨hl, rfl⟩ | ⟨hl, rfl⟩
      exacts [⟨18, hl, rowsN18, he⟩, ⟨6, hl, rowsN6, he⟩]
    obtain ⟨hend, hout, hreason, helse, hwrites⟩ := readGivenFrame_noRow (s := { s with present := none }) hl rows hrow rfl
    obtain ⟨⟨hin, hhold, hhost, hpresent⟩, _⟩ := readGivenFrame_keeps b { s with present := none }
    exact ⟨_, hstep, hend, hout, hreason, helse, hin, hhold, hhost, hpresent, hwrites⟩

/-! ## Report rows inside DECODE -/

section Report

variable {s : State} {n a u x y : Nat} (hc : s.cfg.Legal) (hl : s.cfg.TableLayout n)
include hc hl

theorem decodeFrame_reportRow (ha : a < 2 ^ n) (hu : u < 2 ^ n) (x y : Nat) (state : Bool) :
    decodeFrame s.cfg (informBits n 1 a u 3 x y state) =
      (if a ≤ s.cfg.idMax ∧ u ≤ s.cfg.idMax then some ⟨1, a, u, 3⟩ else none, 4 * n) := by
  have h := decodeFrame_row hc hl ha hu (three_lt_two_pow (two_le_of_layout hc hl)) (toBits n x ++ (toBits n y ++ [state]))
  rw [← informBits_eq] at h
  simpa only [acceptable_row hl (show (commandOf s.cfg 3).isSome = true by simp [commandOf_three hc hl])] using h

omit hc in
theorem decodeStateInform_reportRow (hx : x < 2 ^ n) (hy : y < 2 ^ n) (a u : Nat) (state : Bool) :
    decodeStateInform s.cfg (informBits n 1 a u 3 x y state) (4 * n) =
      (if x ≤ s.cfg.idMax ∧ y ≤ s.cfg.idMax then some ⟨x, y, state⟩ else none, 6 * n + 1) := by
  obtain ⟨rfl, _⟩ := hl
  simpa using decodeStateInform_informBits hx hy 1 state []

theorem accepted_reportRow : accepted s.cfg ⟨1, a, u, 3⟩ = true ↔ a = s.cfg.broadcast ∧ u = s.cfg.broadcast := by
  have h := accepted_report hc 1 (toSys := a) (toUnit := u)
  obtain ⟨_, _, _, _, _, hcmd⟩ := hl
  rwa [hcmd] at h

theorem reportRow_length_le (a u x y : Nat) (state : Bool) : (informBits n 1 a u 3 x y state).length ≤ s.cfg.bitCap := by
  rw [informBits_length]
  exact row_le_bitCap hc hl

/-- A destination above ID_MAX: no frame (R62 (c), R83). -/
theorem readGivenFrame_reportRow_noFrame (ha : a < 2 ^ n) (hu : u < 2 ^ n) (hdest : s.cfg.idMax < a ∨ s.cfg.idMax < u) (x y : Nat)
    (state : Bool) :
    readGivenFrame (informBits n 1 a u 3 x y state) s =
      failWith .noMatch (s.withDecoded (informBits n 1 a u 3 x y state) none s.payload (4 * n)) := by
  have hframe := decodeFrame_reportRow hc hl ha hu x y state
  rw [if_neg (by omega)] at hframe
  exact readGivenFrame_noFrame (reportRow_length_le hc hl ..) hframe

/-- A destination other than BROADCAST: the report is not accepted (R100). -/
theorem readGivenFrame_reportRow_rejected (ha : a < 2 ^ n) (hu : u < 2 ^ n) (hdest : ¬(s.cfg.idMax < a ∨ s.cfg.idMax < u))
    (hbroadcast : ¬(a = s.cfg.broadcast ∧ u = s.cfg.broadcast)) (x y : Nat) (state : Bool) :
    readGivenFrame (informBits n 1 a u 3 x y state) s =
      failWith .noMatch (s.withDecoded (informBits n 1 a u 3 x y state) (some ⟨1, a, u, 3⟩) s.payload (4 * n)) := by
  have hframe := decodeFrame_reportRow hc hl ha hu x y state
  rw [if_pos (by omega)] at hframe
  exact readGivenFrame_rejected (reportRow_length_le hc hl ..) hframe (by simpa using mt (accepted_reportRow hc hl).mp hbroadcast)

/-- A payload address above ID_MAX: no payload (R62 (c), R83). -/
theorem readGivenFrame_reportRow_noPayload (ha : a < 2 ^ n) (hu : u < 2 ^ n) (hx : x < 2 ^ n) (hy : y < 2 ^ n)
    (hdest : ¬(s.cfg.idMax < a ∨ s.cfg.idMax < u)) (hbroadcast : a = s.cfg.broadcast ∧ u = s.cfg.broadcast)
    (hpayload : ¬(x ≤ s.cfg.idMax ∧ y ≤ s.cfg.idMax)) (state : Bool) :
    readGivenFrame (informBits n 1 a u 3 x y state) s =
      failWith .noMatch (s.withDecoded (informBits n 1 a u 3 x y state) (some ⟨1, a, u, 3⟩) none (6 * n + 1)) := by
  have hframe := decodeFrame_reportRow hc hl ha hu x y state
  have hread := decodeStateInform_reportRow hl hx hy a u state
  rw [if_pos (by omega)] at hframe
  rw [if_neg hpayload] at hread
  exact readGivenFrame_noPayload (reportRow_length_le hc hl ..) hframe ((accepted_reportRow hc hl).mpr hbroadcast) hread

/-- A report to both BROADCAST destinations with both payload addresses in range is delivered (R101). -/
theorem readGivenFrame_reportRow_report (ha : a < 2 ^ n) (hu : u < 2 ^ n) (hx : x < 2 ^ n) (hy : y < 2 ^ n)
    (hdest : ¬(s.cfg.idMax < a ∨ s.cfg.idMax < u)) (hbroadcast : a = s.cfg.broadcast ∧ u = s.cfg.broadcast)
    (hpayload : x ≤ s.cfg.idMax ∧ y ≤ s.cfg.idMax) (state : Bool) :
    readGivenFrame (informBits n 1 a u 3 x y state) s =
      deliverReport ⟨x, y, state⟩
        (s.withDecoded (informBits n 1 a u 3 x y state) (some ⟨1, a, u, 3⟩) (some ⟨x, y, state⟩) (6 * n + 1)) := by
  have hframe := decodeFrame_reportRow hc hl ha hu x y state
  have hread := decodeStateInform_reportRow hl hx hy a u state
  rw [if_pos (by omega)] at hframe
  rw [if_pos hpayload] at hread
  exact readGivenFrame_report (reportRow_length_le hc hl ..) hframe ((accepted_reportRow hc hl).mpr hbroadcast) hread

end Report

/-- Settles O45: a report row inside DECODE is one of four, by its destinations and its payload addresses. -/
theorem reportFramesReadInsideDecode : Obligations.ReportFramesReadInsideDecode := by
  intro s hc hb ho readBy
  have hrow : ∀ {n a u x y : Nat} {state : Bool} {i : Instr}, s.cfg.TableLayout n → a < 2 ^ n → u < 2 ^ n → x < 2 ^ n → y < 2 ^ n →
      exec i s = .next (readGivenFrame (informBits n 1 a u 3 x y state) s) → readBy n a u x y state i := by
    intro n a u x y state i hl ha hu hx hy hexec
    refine ⟨_, hexec, ?_⟩
    have hlen := informBits_length n 1 a u 3 x y state
    by_cases hdest : s.cfg.idMax < a ∨ s.cfg.idMax < u
    · obtain ⟨hend, hout, hreason, hbits, hframe, hpay, _, hidx, hrest⟩ :=
        noMatch_withDecoded (readGivenFrame_reportRow_noFrame hc hl ha hu hdest x y state)
      rw [if_pos hdest]
      exact ⟨⟨hend, hout, hframe, hpay⟩, hreason, hbits, hidx.trans hlen, hrest⟩
    rw [if_neg hdest]
    by_cases hbroadcast : a = s.cfg.broadcast ∧ u = s.cfg.broadcast
    · rw [if_pos hbroadcast]
      by_cases hpayload : x ≤ s.cfg.idMax ∧ y ≤ s.cfg.idMax
      · obtain ⟨hend, hmessage, hrepeat, hpout, hreason, hbits, hframe, hpay, hcur, hidx, hrest⟩ :=
          deliverReport_withDecoded (readGivenFrame_reportRow_report hc hl ha hu hx hy hdest hbroadcast hpayload state)
        rw [if_pos hpayload]
        exact ⟨⟨hframe, hend, hpay, hcur, hmessage, hrepeat, hpout⟩, hreason, hbits, hidx.trans hlen, hrest⟩
      · obtain ⟨hend, hout, hreason, hbits, hframe, hpay, _, hidx, hrest⟩ :=
          noMatch_withDecoded (readGivenFrame_reportRow_noPayload hc hl ha hu hx hy hdest hbroadcast hpayload state)
        rw [if_neg hpayload]
        exact ⟨⟨hframe, hend, hout, hpay⟩, hreason, hbits, hidx.trans hlen, hrest⟩
    · obtain ⟨hend, hout, hreason, hbits, hframe, hpay, hcur, hidx, hrest⟩ :=
        noMatch_withDecoded (readGivenFrame_reportRow_rejected hc hl ha hu hdest hbroadcast x y state)
      rw [if_neg hbroadcast]
      exact ⟨⟨hframe, hend, hout, hpay, hcur⟩, hreason, hbits, hidx.trans hlen, hrest⟩
  exact ⟨fun hl toSys toUnit sys unit state =>
      hrow hl toSys.isLt toUnit.isLt sys.isLt unit.isLt (whileBusy_insideDecode hb ho),
    fun hl toSys toUnit sys unit state => hrow hl toSys.isLt toUnit.isLt sys.isLt unit.isLt (whileBusy_insideDecode hb ho)⟩

end Sys2Proof.Machine
end

section
/-! PROOFS, family 40_address_codec.md: the digit maps, and the round trip of an Address through its string. -/

namespace Sys2Proof.Machine

/-- Settles O15: the formatter's digits read back as the Address, and a legal Address needs at most the five digits the parser takes. -/
theorem parseOfFormatIsTheAddress : Obligations.ParseOfFormatIsTheAddress := by
  intro c a hc ha
  obtain ⟨e, hformat, hmin, hmax, hdigits, _⟩ := formatAddress_spec (legal_address hc ha).2
  exact parseAddress_some.mpr ⟨e, hformat, hmin, hmax, hdigits, ha⟩

/-- Settles O14: the alphabet's code ranges spell out R44's order, and each digit map undoes the other. -/
theorem digitMapsAreInverse : Obligations.DigitMapsAreInverse := by
  refine ⟨?order, ?valueOfChar, ?charOfValue⟩
  case order => decide
  case valueOfChar => exact fun _ => digitValue_digitChar
  case charOfValue => exact fun _ _ => digitChar_digitValue

end Sys2Proof.Machine
end

section
/-! PROOFS, family 41_pulse_timing_codec.md: the classes of durations, the trains PULSE_DECODE accepts, the round trip of bits through a train. -/

namespace Sys2Proof.Machine

/-! ## Classes of durations -/

section Bands

variable {c : Config} {d : Nat}

theorem classify_low_iff : classify c d = .low ↔ inBand c d c.pulseLow = true := by
  unfold classify
  split_ifs with hl <;> simp [hl]

/-- The LOW band, which CLASSIFY asks first, lies below the HIGH band (R6 (e)). -/
theorem classify_high_iff (hc : c.Legal) : classify c d = .high ↔ inBand c d c.pulseHigh = true := by
  have hbands := legal_bands hc
  have hlow : inBand c d c.pulseHigh = true → ¬inBand c d c.pulseLow = true := by
    rw [inBand_iff, inBand_iff]; omega
  unfold classify
  split_ifs with hl hh hf
  · exact iff_of_false (by decide) fun h => hlow h hl
  · exact iff_of_true rfl hh
  · exact iff_of_false (by decide) hh
  · exact iff_of_false (by decide) hh

/-- The LOW and HIGH bands, which CLASSIFY asks first, lie below the FOOTER band (R6 (e)). -/
theorem classify_footer_iff (hc : c.Legal) : classify c d = .footer ↔ inBand c d c.pulseFooter = true := by
  have hbands := legal_bands hc
  have hlow : inBand c d c.pulseFooter = true → ¬inBand c d c.pulseLow = true := by
    rw [inBand_iff, inBand_iff]; omega
  have hhigh : inBand c d c.pulseFooter = true → ¬inBand c d c.pulseHigh = true := by
    rw [inBand_iff, inBand_iff]; omega
  unfold classify
  split_ifs with hl hh hf
  · exact iff_of_false (by decide) fun h => hlow h hl
  · exact iff_of_false (by decide) fun h => hhigh h hh
  · exact iff_of_true rfl hf
  · exact iff_of_false (by decide) hf

end Bands

/-- Settles O19: each class is its reference's band, since the three bands of a legal configuration do not meet; NONE is the one class left. -/
theorem classesAreTheClosedBands : Obligations.ClassesAreTheClosedBands := by
  intro c d hc
  refine ⟨?low, ?high, ?footer, ?none⟩
  case low => rw [classify_low_iff, inBand_iff]
  case high => rw [classify_high_iff hc, inBand_iff]
  case footer => rw [classify_footer_iff hc, inBand_iff]
  case none => cases classify c d <;> decide

/-! ## The trains PULSE_DECODE accepts -/

/-- The pair loop reads `b` from the whole of `q`: two pulses per bit, and pair `i` is the symbol of bit `i` (R74, R75). -/
theorem readPairs_iff {c : Config} {q : Train} {b : Bits} :
    readPairs c q = (b, true) ↔
      q.length = 2 * b.length ∧ ∀ i, i < b.length → pairToBit c (q.getD (2 * i) 0) (q.getD (2 * i + 1) 0) = b[i]? := by
  induction q using readPairs.induct c generalizing b with
  | case1 => cases b <;> simp [readPairs]
  | case2 d => simp [readPairs]; omega
  | case3 d0 d1 rest hnone =>
    cases b with
    | nil => simp [readPairs, hnone]
    | cons x xs =>
      simp only [readPairs, hnone, Prod.mk.injEq, reduceCtorEq, and_self, false_iff]
      rintro ⟨-, hpairs⟩
      simpa [hnone] using hpairs 0
  | case4 d0 d1 rest y hsome ih =>
    cases b with
    | nil => simp [readPairs, hsome]
    | cons x xs =>
      have hrest := @ih xs
      simp only [Prod.ext_iff] at hrest
      simp only [readPairs, hsome, Prod.mk.injEq, List.cons.injEq, and_assoc, hrest, List.length_cons, Nat.forall_lt_succ_left']
      simpa [hsome, Nat.mul_succ] using and_left_comm

theorem exists_lastTwo {p : Train} (h : 2 ≤ p.length) : ∃ q d0 d1, p = q ++ [d0, d1] := by
  obtain ⟨d0, d1, hlast⟩ := List.length_eq_two.mp (show (p.drop (p.length - 2)).length = 2 by rw [List.length_drop]; omega)
  exact ⟨p.take (p.length - 2), d0, d1, by rw [← hlast, List.take_append_drop]⟩

/-- PULSE_DECODE of a train with its last two pulses set apart: the data pulses are whole symbols, the last two a trailer (R75). -/
theorem pulseDecode_append_iff {c : Config} {q : Train} {d0 d1 : Nat} {ovf : Bool} {b : Bits} :
    pulseDecode c (q ++ [d0, d1]) ovf = some b ↔
      ovf = false ∧ b ≠ [] ∧ readPairs c q = (b, true) ∧ isTrailer c d0 d1 = true := by
  have hdata : dataPulses (q ++ [d0, d1]) = q := by simp [dataPulses]
  have hwhole : trainIsWhole c (q ++ [d0, d1]) ovf = true ↔
      ovf = false ∧ 0 < q.length ∧ q.length % 2 = 0 ∧ isTrailer c d0 d1 = true := by
    simp [trainIsWhole, endsInTrailer_append, and_assoc]
  simp only [pulseDecode, hdata, Option.ite_none_right_eq_some, hwhole, Option.some.injEq]
  constructor
  · rintro ⟨⟨hovf, hpos, -, htrailer⟩, hall, rfl⟩
    have hread : readPairs c q = ((readPairs c q).1, true) := Prod.ext rfl hall
    have hlen := (readPairs_iff.mp hread).1
    exact ⟨hovf, List.length_pos_iff.mp (by omega), hread, htrailer⟩
  · rintro ⟨hovf, hne, hread, htrailer⟩
    have hlen := (readPairs_iff.mp hread).1
    have hpos := List.length_pos_iff.mpr hne
    exact ⟨⟨hovf, by omega, by omega, htrailer⟩, by rw [hread], by rw [hread]⟩

/-- Settles O20: the train's last two pulses are set apart; the pair loop reads the ones before them. -/
theorem pulseDecodeAcceptsExactlyWholeTrains : Obligations.PulseDecodeAcceptsExactlyWholeTrains := by
  intro c p ovf b
  rcases Nat.lt_or_ge p.length 2 with hshort | hlong
  · constructor
    · intro h
      have := pulseDecode_length h
      omega
    · rintro ⟨-, -, hlen, -⟩
      omega
  · obtain ⟨q, d0, d1, rfl⟩ := exists_lastTwo hlong
    rw [pulseDecode_append_iff, readPairs_iff, isTrailer_iff]
    simp only [List.length_append, List.length_cons, List.length_nil, Nat.reduceAdd, Nat.add_right_cancel_iff, and_assoc]
    refine and_congr_right fun _ => and_congr_right fun _ => and_congr_right fun hlen => ?_
    refine and_congr ?pairs ?trailer
    case pairs =>
      refine forall₂_congr fun i hi => ?_
      rw [List.getD_append _ _ _ _ (by omega), List.getD_append _ _ _ _ (by omega)]
    case trailer =>
      rw [List.getD_append_right _ _ _ _ (by omega), List.getD_append_right _ _ _ _ (by omega), hlen]
      simp

/-! ## The round trip -/

/-- A duration is one of the three references (R47, R48). -/
def IsReference (c : Config) (d : Nat) : Prop := d = c.pulseLow ∨ d = c.pulseHigh ∨ d = c.pulseFooter

/-- The encoder writes nothing but references (R77). -/
theorem isReference_of_mem_pulseEncode {c : Config} {b : Bits} {d : Nat} (h : d ∈ pulseEncode c b) : IsReference c d := by
  have hpair : ∀ x, ∀ d ∈ bitToPair c x, IsReference c d := by
    intro x
    cases x <;> simp [bitToPair, IsReference]
  have htrailer : ∀ d ∈ trailer c, IsReference c d := by simp [trailer, IsReference]
  rcases List.mem_append.mp h with hd | hd
  · obtain ⟨x, _, hx⟩ := List.mem_flatMap.mp hd
    exact hpair x d hx
  · exact htrailer d hd

section References

variable {c : Config} {d d0 d1 : Nat} (hc : c.Legal)
include hc

/-- The references have three different classes, so a reference's class tells which one it is. -/
theorem IsReference.eq_of_classify (h : IsReference c d) :
    (classify c d = .low → d = c.pulseLow) ∧ (classify c d = .high → d = c.pulseHigh) ∧
      (classify c d = .footer → d = c.pulseFooter) := by
  rcases h with rfl | rfl | rfl
  · simp [classify_pulseLow]
  · simp [classify_pulseHigh hc]
  · simp [classify_pulseFooter hc]

theorem bitToPair_of_pairToBit {x : Bool} (h0 : IsReference c d0) (h1 : IsReference c d1) (h : pairToBit c d0 d1 = some x) :
    bitToPair c x = [d0, d1] := by
  obtain ⟨hlow0, hhigh0, _⟩ := h0.eq_of_classify hc
  obtain ⟨hlow1, hhigh1, _⟩ := h1.eq_of_classify hc
  cases x with
  | false =>
    obtain ⟨hd0, hd1⟩ := pairToBit_false.mp h
    rw [hlow0 hd0, hhigh1 hd1]; rfl
  | true =>
    obtain ⟨hd0, hd1⟩ := pairToBit_true.mp h
    rw [hhigh0 hd0, hlow1 hd1]; rfl

theorem trailer_of_isTrailer (h0 : IsReference c d0) (h1 : IsReference c d1) (h : isTrailer c d0 d1 = true) : trailer c = [d0, d1] := by
  obtain ⟨_, hhigh, _⟩ := h0.eq_of_classify hc
  obtain ⟨_, _, hfooter⟩ := h1.eq_of_classify hc
  obtain ⟨hd0, hd1⟩ := isTrailer_iff.mp h
  rw [hhigh hd0, hfooter hd1]; rfl

/-- On references the encoder writes back what the pair loop read (R74, R79). -/
theorem flatMap_bitToPair_of_readPairs {q : Train} {b : Bits} (hq : ∀ d ∈ q, IsReference c d) (h : readPairs c q = (b, true)) :
    b.flatMap (bitToPair c) = q := by
  induction q using readPairs.induct c generalizing b with
  | case1 =>
    obtain rfl : b = [] := by simpa [readPairs] using h.symm
    rfl
  | case2 d => simp [readPairs] at h
  | case3 d0 d1 rest hnone => simp [readPairs, hnone] at h
  | case4 d0 d1 rest x hsome ih =>
    simp only [readPairs, hsome, Prod.mk.injEq] at h
    obtain ⟨rfl, hwhole⟩ := h
    rw [List.flatMap_cons, bitToPair_of_pairToBit hc (hq d0 (by simp)) (hq d1 (by simp)) hsome,
      ih (fun d hd => hq d (by simp [hd])) (Prod.ext rfl hwhole)]
    rfl

/-- The converse of R79 for a train on its references. -/
theorem pulseEncode_of_pulseDecode {p : Train} {b : Bits} {ovf : Bool} (hp : ∀ d ∈ p, IsReference c d)
    (h : pulseDecode c p ovf = some b) : pulseEncode c b = p := by
  obtain ⟨q, d0, d1, rfl⟩ := exists_lastTwo (Nat.le_of_add_left_le (pulseDecode_length h))
  obtain ⟨_, _, hread, htrailer⟩ := pulseDecode_append_iff.mp h
  rw [pulseEncode, flatMap_bitToPair_of_readPairs hc (fun d hd => hp d (by simp [hd])) hread,
    trailer_of_isTrailer hc (hp d0 (by simp)) (hp d1 (by simp)) htrailer]

end References

/-- Settles O21: the decoder reads back what the encoder writes, and the encoder writes references alone. -/
theorem pulseDecodeOfEncodeIsTheBits : Obligations.PulseDecodeOfEncodeIsTheBits := by
  intro c b hc hb
  refine ⟨pulseDecode_pulseEncode hc hb, fun p hp => ⟨?_, fun href => pulseEncode_of_pulseDecode hc href hp⟩⟩
  rintro rfl d hd
  exact isReference_of_mem_pulseEncode hd

/-- Settles O22: POUT has room for two pulses per bit of a full BITS and a trailer, and the references fit DUR_WIDTH. -/
theorem encodedTrainsFitTheBuffer : Obligations.EncodedTrainsFitTheBuffer := by
  intro c b hc
  refine ⟨pulseEncode_length c b, fun hb => ?_, trainFits_pulseEncode hc b⟩
  rw [pulseEncode_length]
  unfold Config.bitCap at hb
  unfold Config.poutCap Config.maxRawLength
  omega

end Sys2Proof.Machine
end

section
/-! PROOFS, family 42_frame_codec.md: the bits a builder answers, and the frame DECODE_FRAME reads from them. -/

namespace Sys2Proof.Machine

/-- Settles O25: a builder answers a header, four fields of N bits. -/
theorem buildersReturnFourFields : Obligations.BuildersReturnFourFields := by
  intro c r sys unit
  exact ⟨_, buildFor_eq c r sys unit, headerBits_length ..⟩

/-- A request's command code fits its field (R6, R57). -/
theorem Request.code_lt {c : Config} (h : c.Legal) (r : Request) : r.code c < 2 ^ c.idBits := by
  obtain ⟨_, _, _, ⟨_, hle⟩, _⟩ := h
  have hcode : r.code c ≤ 2 ^ c.idBits - 1 := hle _ (by cases r <;> simp [Request.code])
  have := Nat.two_pow_pos c.idBits
  omega

/-- A request's header may stand in the frame registers when both of its addresses are in range (R18, R93). -/
theorem Request.frame_acceptable {c : Config} (h : c.Legal) (r : Request) {sys unit : Nat} (hsys : sys ≤ c.idMax) (hunit : unit ≤ c.idMax) :
    Frame.acceptable c ⟨c.protocolId, sys, unit, r.code c⟩ = true :=
  Frame.acceptable_iff.mpr ⟨rfl, hsys, hunit, by rw [commandOf_code h]; rfl⟩

/-- Settles O24: the header's four values fit their fields, so they are read back, and the frame they make is acceptable. -/
theorem decodeFrameOfBuildIsTheFrame : Obligations.DecodeFrameOfBuildIsTheFrame := by
  intro c r sys unit hc hsys hunit
  refine ⟨_, buildFor_eq c r sys unit, ?_⟩
  have hframe := decodeFrame_headerBits hc (legal_address hc hsys).1 (legal_address hc hunit).1 (r.code_lt hc) []
  rwa [List.append_nil, if_pos (r.frame_acceptable hc hsys hunit)] at hframe

end Sys2Proof.Machine
end

section
/-! PROOFS, family 43_validator.md: the verdict on a train, and the trains of requests, which pass the validator and are no reports. -/

namespace Sys2Proof.Machine

/-- Settles O28: the verdict is the overflow flag and the trailer test on the last two pulses, which a shorter train does not have. -/
theorem validateLooksAtTheLastTwoPulses : Obligations.ValidateLooksAtTheLastTwoPulses := by
  intro c p d0 d1 ovf
  constructor
  · rw [validate, endsInTrailer_append, Bool.and_eq_true, Bool.not_eq_true', isTrailer_iff]
  · intro hshort
    rw [validate, endsInTrailer_short c hshort, Bool.and_false]

/-! ## The validator's gate -/

section Gate

variable {c : Config} {p : Train} {ovf : Bool}

/-- The checks of PULSE_DECODE before its loop include the validator's (R75, R94). -/
theorem validate_of_trainIsWhole (h : trainIsWhole c p ovf = true) : validate c p ovf = true := by
  simp only [trainIsWhole, Bool.and_eq_true] at h
  obtain ⟨⟨⟨hovf, _⟩, _⟩, htrailer⟩ := h
  rw [validate, hovf, htrailer, Bool.and_self]

/-- PULSE_DECODE of a rejected train does not come to its loop (R17, R75). -/
theorem pulseIndexAfterDecode_of_rejected (h : validate c p ovf = false) : pulseIndexAfterDecode c p ovf = 0 := by
  have hw : ¬ trainIsWhole c p ovf = true := fun hw => by simp [validate_of_trainIsWhole hw] at h
  rw [pulseIndexAfterDecode, if_neg hw]

/-- A train that decodes passes the validator (R96). -/
theorem validate_of_pulseDecode {b : Bits} (h : pulseDecode c p ovf = some b) : validate c p ovf = true := by
  by_contra hv
  rw [pulseDecode_of_rejected (Bool.eq_false_iff.mpr hv)] at h
  cases h

end Gate

/-- From an accepted START, DECODE_INCOMING of a rejected train ends as the gate does: the registers it would empty are empty (R27, R96). -/
theorem readTrain_acceptStart_of_rejected (op : BitVec 2) {s : State} (h : validate s.cfg s.pin s.pinOvf = false) :
    readTrain (acceptStart op s) = failWith .noMatch (acceptStart op s) := by
  have hread : readTrain (acceptStart op s) =
      failEmpty { acceptStart op s with pulseIdx := pulseIndexAfterDecode s.cfg s.pin s.pinOvf } := by
    rcases readTrain_cases (acceptStart op s) with ⟨_, hr⟩ | ⟨b, hd, _⟩
    · exact hr
    · cases (pulseDecode_of_rejected h).symm.trans hd
  rw [hread, pulseIndexAfterDecode_of_rejected h]
  rfl

/-- The gate changes no result of OP_DECODE's body (R96, R108). -/
theorem runDecode_acceptStart (op : BitVec 2) (s : State) : runDecode (acceptStart op s) = readTrain (acceptStart op s) := by
  rw [runDecode]
  split
  · rfl
  · next hv => exact (readTrain_acceptStart_of_rejected op (Bool.eq_false_iff.mpr hv)).symm

/-- Settles O29: PULSE_DECODE repeats the validator's checks, so the gate stops no train that would decode. -/
theorem rejectedTrainsDoNotDecode : Obligations.RejectedTrainsDoNotDecode := by
  refine ⟨fun _ _ _ => pulseDecode_of_rejected, fun s => ?_⟩
  change startOperation 1#2 runDecode s = startOperation 1#2 readTrain s
  rw [startOperation, startOperation, runDecode_acceptStart]

/-! ## The trains of requests -/

/-- What an encode sends: the train of the header of a good request (R102). -/
theorem encodeOutgoing_sent {c : Config} {reqSys reqUnit : Option Text} {reqCmd : BitVec 2} {e : EncodeResult}
    (h : encodeOutgoing c reqSys reqUnit reqCmd = .sent e) :
    ∃ sys unit r, parseAddress c reqSys = some sys ∧ parseAddress c reqUnit = some unit ∧ requestOf reqCmd = some r ∧
      e = ⟨pulseEncode c (headerBits c.idBits c.protocolId sys unit (r.code c)), fixedRepeat, requestMessage r sys unit⟩ := by
  unfold encodeOutgoing at h
  split at h
  · cases h
  split at h
  · cases h
  next sys hsys =>
  split at h
  · cases h
  split at h
  · cases h
  next unit hunit =>
  split at h
  · cases h
  next r hr =>
  rw [buildFor_eq] at h
  cases h
  exact ⟨sys, unit, r, hsys, hunit, hr, rfl⟩

/-- The dispatcher accepts a report's command alone, and no request has it (R100, R104). -/
theorem Request.frame_not_accepted {c : Config} (h : c.Legal) (r : Request) (proto sys unit : Nat) :
    accepted c ⟨proto, sys, unit, r.code c⟩ = false := by
  rw [accepted, commandOf_code h]
  cases r <;> rfl

/-- Settles O39: the train gives the header's bits back and the header its frame, which is acceptable but not accepted. -/
theorem requestsAreNotDecodableAsReports : Obligations.RequestsAreNotDecodableAsReports := by
  intro c reqSys reqUnit reqCmd e hc hsent
  obtain ⟨sys, unit, r, hsys, hunit, _, rfl⟩ := encodeOutgoing_sent hsent
  have hne : headerBits c.idBits c.protocolId sys unit (r.code c) ≠ [] := by
    have hwidth : 2 ≤ c.idBits := hc.1.1
    exact List.ne_nil_of_length_pos (by rw [headerBits_length]; omega)
  have hbits := pulseDecode_pulseEncode hc hne
  obtain ⟨b, hbuild, hframe⟩ := decodeFrameOfBuildIsTheFrame c r sys unit hc (parseAddress_le hsys) (parseAddress_le hunit)
  cases (buildFor_eq c r sys unit).symm.trans hbuild
  refine ⟨validate_of_pulseDecode hbits, ⟨_, _, hbits, by rw [hframe]⟩, ?_⟩
  simp only [decodeIncoming, hbits, decodeReport_eq, hframe, Option.bind_some, r.frame_not_accepted hc, Bool.false_eq_true, ↓reduceIte]

end Sys2Proof.Machine
end

section
/-! PROOFS, family 44_dispatcher.md: how the four host operations end, and the outcome rows an operation does not take. -/

namespace Sys2Proof.Machine

/-! ## The ends of an operation from an accepted START -/

/-- Every failure end is its outcome with the outputs cleared (R121, R122). -/
theorem failWith_clears (st : Status) (s : State) : (failWith st s).EndedIn st ∧ (failWith st s).OutputsClear :=
  ⟨⟨rfl, rfl, rfl⟩, rfl, rfl, rfl, rfl, rfl, rfl⟩

/-- An accepted START clears the working state (R27). -/
theorem workingClear_acceptStart (op : BitVec 2) (s : State) : (acceptStart op s).WorkingClear := ⟨rfl, rfl, rfl, rfl, rfl, rfl, rfl⟩

/-- Settles O30: the body writes the verdict, and both ends leave what START cleared. -/
theorem opValidateWritesTheVerdict : Obligations.OpValidateWritesTheVerdict := by
  intro s ha
  obtain ⟨_, hfatal⟩ := acceptsStart_iff.mp ha
  refine ⟨_, startOperation_accepted ha, ?_⟩
  obtain ⟨⟨hinputs, hschedule⟩, hop⟩ := runValidate_keeps (acceptStart 0#2 s)
  have hfatal' := (runValidate_fatal (acceptStart 0#2 s)).trans hfatal
  rcases runValidate_cases (acceptStart 0#2 s) with ⟨hv, hr⟩ | ⟨hv, hr⟩ <;> rw [hr] at hinputs hschedule hop hfatal' ⊢
  · rw [show validate s.cfg s.pin s.pinOvf = true from hv]
    exact ⟨⟨rfl, rfl, rfl⟩, ⟨rfl, rfl, rfl, rfl, rfl, rfl⟩, rfl, hfatal', hop, workingClear_acceptStart 0#2 s, hinputs, hschedule⟩
  · rw [show validate s.cfg s.pin s.pinOvf = false from hv]
    obtain ⟨hended, hclear⟩ := failWith_clears .invalid (acceptStart 0#2 s)
    exact ⟨hended, hclear, rfl, hfatal', hop, workingClear_acceptStart 0#2 s, hinputs, hschedule⟩

/-- Settles O36: the body is the failure end alone. -/
theorem reservedCodeEndsInBadOp : Obligations.ReservedCodeEndsInBadOp := by
  intro s ha
  obtain ⟨_, hfatal⟩ := acceptsStart_iff.mp ha
  obtain ⟨⟨hinputs, hschedule⟩, _⟩ := runReserved_keeps (acceptStart 3#2 s)
  obtain ⟨hended, hclear⟩ := failWith_clears .badOp (acceptStart 3#2 s)
  exact ⟨_, startOperation_accepted ha, hended, hclear, workingClear_acceptStart 3#2 s, rfl,
    by simp [runReserved, hfatal], hinputs, hschedule⟩

/-! ## OP_DECODE and DECODE_INCOMING -/

/-- A decode over the registers ends as DECODE_INCOMING answers (R98): it delivers the report, or it is no match; before that end it writes the
registers of the decode path alone. -/
theorem readTrain_ends (s : State) :
    (∃ b i f p k, decodeIncoming s.cfg s.pin s.pinOvf = some (reportMessage p) ∧
      readTrain s = deliverReport p { s with bits := b, pulseIdx := i, frame := f, payload := some p, cur := k }) ∨
    (∃ b i f p k, decodeIncoming s.cfg s.pin s.pinOvf = none ∧
      readTrain s = failWith .noMatch { s with bits := b, pulseIdx := i, frame := f, payload := p, cur := k }) := by
  rcases readTrain_cases s with ⟨hd, hr⟩ | ⟨b, hd, hr⟩
  · exact .inr ⟨[], _, s.frame, s.payload, 0, by rw [decodeIncoming, hd], hr⟩
  · rw [hr, decodeIncoming, hd]
    rcases readFrame_ends { s with pulseIdx := pulseIndexAfterDecode s.cfg s.pin s.pinOvf, bits := b } with
      ⟨f, p, k, hm, hf⟩ | ⟨f, p, k, hm, hf⟩
    · exact .inl ⟨b, _, f, p, k, hm, hf⟩
    · exact .inr ⟨b, _, f, p, k, hm, hf⟩

/-- Settles O31: from cleared registers the gate changes nothing, so the body is a decode of PIN. -/
theorem opDecodeGivesDecodeIncoming : Obligations.OpDecodeGivesDecodeIncoming := by
  intro s ha
  obtain ⟨_, hfatal⟩ := acceptsStart_iff.mp ha
  refine ⟨_, startOperation_accepted ha, ?_⟩
  obtain ⟨⟨hinputs, hschedule⟩, hop⟩ := runDecode_keeps (acceptStart 1#2 s)
  have hfatal' := (runDecode_fatal (acceptStart 1#2 s)).trans hfatal
  rw [runDecode_acceptStart] at hinputs hschedule hop hfatal' ⊢
  rcases readTrain_ends (acceptStart 1#2 s) with ⟨b, i, f, p, k, hm, hr⟩ | ⟨b, i, f, p, k, hm, hr⟩ <;>
    rw [hr] at hinputs hschedule hop hfatal' ⊢
  · rw [show decodeIncoming s.cfg s.pin s.pinOvf = some (reportMessage p) from hm]
    exact ⟨⟨⟨rfl, rfl, rfl⟩, ⟨rfl, rfl, rfl, rfl⟩, rfl, rfl⟩, rfl, hfatal', hop, rfl, rfl, rfl, hinputs, hschedule⟩
  · rw [show decodeIncoming s.cfg s.pin s.pinOvf = none from hm]
    exact ⟨failWith_clears _ _, rfl, hfatal', hop, rfl, rfl, rfl, hinputs, hschedule⟩

/-! ## OP_ENCODE and ENCODE_OUTGOING -/

/-- An absent string does not parse (R67). -/
theorem parseAddress_none (c : Config) : parseAddress c none = none := rfl

/-- A string that parses is present (R67). -/
theorem parseAddress_ne_none {c : Config} {v : Option Text} {a : Nat} (h : parseAddress c v = some a) : v ≠ none := by
  rintro rfl
  cases h

/-- An encode over the registers ends as ENCODE_OUTGOING answers (R102): in the first argument error, or in the request's being sent. Before
that end the addresses are recorded. -/
theorem runEncode_ends (s : State) :
    (∃ e a u, encodeOutgoing s.cfg s.reqSys s.reqUnit s.reqCmd = .argError e ∧
      runEncode s = failArgument e { s with aSys := a, aUnit := u }) ∨
    (∃ sys unit r b, encodeOutgoing s.cfg s.reqSys s.reqUnit s.reqCmd =
        .sent ⟨pulseEncode s.cfg b, fixedRepeat, requestMessage r sys unit⟩ ∧
      runEncode s = deliverRequest r sys unit (emitTrain (loadFrame r sys unit b { s with aSys := some sys, aUnit := some unit }))) := by
  unfold encodeOutgoing
  rcases runEncode_cases s with ⟨h0, hr⟩ | ⟨h0, hs, hr⟩ | ⟨sys, hs, h1, hr⟩ | ⟨sys, hs, h1, hu, hr⟩ | ⟨sys, unit, hs, hu, hc, hr⟩ |
    ⟨sys, unit, r, hs, hu, hc, hr⟩
  · exact .inl ⟨_, s.aSys, s.aUnit, if_pos h0, hr⟩
  · exact .inl ⟨_, s.aSys, s.aUnit, by simp [h0, hs], hr⟩
  · exact .inl ⟨_, some sys, s.aUnit, by simp [parseAddress_ne_none hs, hs, h1], hr⟩
  · exact .inl ⟨_, some sys, s.aUnit, by simp [parseAddress_ne_none hs, hs, h1, hu], hr⟩
  · exact .inl ⟨_, some sys, some unit, by simp [parseAddress_ne_none hs, hs, parseAddress_ne_none hu, hu, hc], hr⟩
  · rw [sendRequest_eq] at hr
    exact .inr ⟨sys, unit, r, _, by simp [parseAddress_ne_none hs, hs, parseAddress_ne_none hu, hu, hc, buildFor_eq], hr⟩

/-- Settles O33: the registers' encode ends as ENCODE_OUTGOING does, and never in a sizing mismatch (R91). -/
theorem opEncodeGivesEncodeOutgoing : Obligations.OpEncodeGivesEncodeOutgoing := by
  intro s ha
  obtain ⟨_, hfatal⟩ := acceptsStart_iff.mp ha
  refine ⟨_, startOperation_accepted ha, ?_⟩
  obtain ⟨⟨hinputs, hschedule⟩, hop⟩ := runEncode_keeps (acceptStart 2#2 s)
  have hfatal' := (runEncode_fatal (acceptStart 2#2 s)).trans hfatal
  rcases runEncode_ends (acceptStart 2#2 s) with ⟨e, a, u, he, hr⟩ | ⟨sys, unit, r, b, he, hr⟩ <;>
    rw [hr] at hinputs hschedule hop hfatal' ⊢
  · rw [show encodeOutgoing s.cfg s.reqSys s.reqUnit s.reqCmd = _ from he]
    obtain ⟨hended, hclear⟩ := failWith_clears .errArg { acceptStart 2#2 s with aSys := a, aUnit := u, reason := e }
    exact ⟨⟨hended, rfl, hclear, hfatal'⟩, hop, rfl, hinputs, hschedule⟩
  · rw [show encodeOutgoing s.cfg s.reqSys s.reqUnit s.reqCmd = _ from he]
    exact ⟨⟨⟨rfl, rfl, rfl⟩, rfl, rfl, ⟨rfl, rfl, rfl, rfl⟩, rfl, hfatal'⟩, hop, rfl, hinputs, hschedule⟩

/-- RC_ABSENT alone names no command (R59, R104). -/
theorem requestOf_eq_none_iff (c : BitVec 2) : requestOf c = none ↔ c = 0#2 := by
  revert c
  decide

/-- What an argument error leaves when it ends an accepted encode before anything is built (R115, R122). -/
theorem failArgument_acceptStart {s t : State} {e : Reason} {a u : Option Nat}
    (ht : t = failArgument e { acceptStart 2#2 s with aSys := a, aUnit := u }) :
    t.EndedIn .errArg ∧ t.OutputsClear ∧ t.aSys = a ∧ t.aUnit = u ∧ t.bits = [] ∧ t.frame = none ∧ t.payload = none ∧
      t.sizeReq = 0 ∧ t.cur = 0 ∧ t.reason = e := by
  subst ht
  obtain ⟨hended, hclear⟩ := failWith_clears .errArg { acceptStart 2#2 s with aSys := a, aUnit := u, reason := e }
  exact ⟨hended, hclear, rfl, rfl, rfl, rfl, rfl, rfl, rfl, rfl⟩

/-- Settles O34: five ends of the body are argument errors, in the order of R103, and the sixth is a request without a defect. -/
theorem encodeReportsTheFirstDefect : Obligations.EncodeReportsTheFirstDefect := by
  intro s ha hdefect
  refine ⟨_, startOperation_accepted ha, ?_⟩
  have hcases := runEncode_cases (acceptStart 2#2 s)
  simp only [acceptStart_cfg, acceptStart_reqSys, acceptStart_reqUnit, acceptStart_reqCmd] at hcases
  rcases hcases with ⟨h0, hr⟩ | ⟨h0, hs, hr⟩ | ⟨sys, hs, h1, hr⟩ | ⟨sys, hs, h1, hu, hr⟩ | ⟨sys, unit, hs, hu, hc, hr⟩ |
    ⟨sys, unit, r, hs, hu, hc, hr⟩
  · simpa [h0, parseAddress_none] using failArgument_acceptStart hr
  · simpa [h0, hs] using failArgument_acceptStart hr
  · simpa [hs, parseAddress_ne_none hs, h1, parseAddress_none] using failArgument_acceptStart hr
  · simpa [hs, parseAddress_ne_none hs, h1, hu] using failArgument_acceptStart hr
  · simpa [hs, parseAddress_ne_none hs, hu, parseAddress_ne_none hu] using failArgument_acceptStart hr
  · have habsent : s.reqCmd = 0#2 := by simpa [hs, parseAddress_ne_none hs, hu, parseAddress_ne_none hu] using hdefect
    rw [(requestOf_eq_none_iff _).mpr habsent] at hc
    cases hc

/-! ## Outcome rows inside another operation, or too early -/

/-- A failure outcome inside an operation that does not raise it (R112). -/
theorem endInFailure_other {st : Status} {s : State} (hb : s.busy = true) (h : st.raisedBy s.opRun = false) :
    endInFailure st s = .refused .outcomeOfAnotherOperation := by
  simp [endInFailure, whileBusy_busy hb, h]

/-- ST_OK inside the reserved operation, the one that does not raise it (R112). -/
theorem endInSuccess_other {s : State} (hb : s.busy = true) (h : Status.ok.raisedBy s.opRun = false) :
    endInSuccess s = .refused .outcomeOfAnotherOperation := by
  have ho : s.opRun = 3#2 := by simpa [Status.raisedBy] using h
  simp [endInSuccess, whileBusy_busy hb, ho]

/-- Inside DECODE, ST_OK needs the payload its message is made of (R101). -/
theorem endInSuccess_noPayload {s : State} (hb : s.busy = true) (ho : s.opRun = 1#2) (hp : s.payload = none) :
    endInSuccess s = .refused .outcomeNotReached := by
  simp [endInSuccess, whileBusy_busy hb, ho, hp]

/-- Inside ENCODE, ST_OK needs both addresses and the command its message is made of (R105). -/
theorem endInSuccess_noRequest {s : State} (hb : s.busy = true) (ho : s.opRun = 2#2)
    (h : s.aSys = none ∨ s.aUnit = none ∨ requestOf s.reqCmd = none) : endInSuccess s = .refused .outcomeNotReached := by
  rcases h with h | h | h <;> simp [endInSuccess, whileBusy_busy hb, ho, h]

/-- ST_ERR_ARG inside an operation other than ENCODE looks at no reason (R112). -/
theorem execStErrArg_other {s : State} (hb : s.busy = true) (h : Status.errArg.raisedBy s.opRun = false) :
    execStErrArg s = .refused .outcomeOfAnotherOperation := by
  have ho : s.opRun ≠ 2#2 := by simpa [Status.raisedBy] using h
  rw [execStErrArg, whileBusy_busy hb, if_neg fun hreason => ho hreason.1, endInFailure_other hb h]

/-- Settles O52: an outcome is taken by an operation that raises it alone, and ST_OK and ST_ERR_ARG from registers that hold something. -/
theorem outcomesOfOtherOperationsAreRefused : Obligations.OutcomesOfOtherOperationsAreRefused := by
  intro s hb
  refine ⟨fun i st hi hst => ?_, fun ho hp => ?_, fun ho hmissing => ?_, fun ho hr => ?_⟩
  · simp only [List.mem_cons, List.not_mem_nil, or_false, Prod.mk.injEq] at hi
    rcases hi with ⟨rfl, rfl⟩ | ⟨rfl, rfl⟩ | ⟨rfl, rfl⟩ | ⟨rfl, rfl⟩ | ⟨rfl, rfl⟩ | ⟨rfl, rfl⟩
    · exact endInSuccess_other hb hst
    · exact endInFailure_other hb hst
    · exact endInFailure_other hb hst
    · exact execStErrArg_other hb hst
    · exact endInFailure_other hb hst
    · exact endInFailure_other hb hst
  · exact endInSuccess_noPayload hb ho hp
  · exact endInSuccess_noRequest hb ho hmissing
  · exact (whileBusy_busy hb _).trans (if_pos ⟨ho, hr⟩)

end Sys2Proof.Machine
end

section
/-! PROOFS, family 60_exceptions.md: the ignored START, the failure rows of the running operation, and the outcome that is never produced. -/

namespace Sys2Proof.Machine

/-- A START that is not accepted changes nothing, whichever operation its code names (R124, R134). -/
theorem exec_hostOp_ignored (c : BitVec 2) {s : State} (h : s.acceptsStart = false) : exec (decodeHostOp c) s = .next s := by
  rcases code2_cases c with rfl | rfl | rfl | rfl <;> exact startOperation_ignored h

/-- Settles O37: a START is accepted with BUSY = 0 and FATAL = 0 alone. -/
theorem startIsIgnoredWhileBusyOrFatal : Obligations.StartIsIgnoredWhileBusyOrFatal := by
  intro s c hbf
  refine exec_hostOp_ignored c (Bool.eq_false_iff.mpr fun ha => ?_)
  obtain ⟨hbusy, hfatal⟩ := acceptsStart_iff.mp ha
  simp [hbusy, hfatal] at hbf

/-- A failure outcome ends the running operation that raises it (R112). -/
theorem endInFailure_raised {st : Status} {s : State} (hb : s.busy = true) (h : st.raisedBy s.opRun = true) :
    endInFailure st s = .next (failWith st s) := by
  rw [endInFailure, whileBusy_busy hb, if_pos h]

/-- Settles O50: each row answers the shared failure end, ST_ERR_ARG by its recorded reason; that end keeps inputs and working state. -/
theorem failureRowsEndTheOperation : Obligations.FailureRowsEndTheOperation := by
  intro s i st hb hi hst hreason
  have hrow : exec i s = .next (failWith st s) := by
    simp only [List.mem_cons, List.not_mem_nil, or_false, Prod.mk.injEq] at hi
    rcases hi with ⟨rfl, rfl⟩ | ⟨rfl, rfl⟩ | ⟨rfl, rfl⟩ | ⟨rfl, rfl⟩ | ⟨rfl, rfl⟩
    · exact endInFailure_raised hb hst
    · exact endInFailure_raised hb hst
    · exact execStErrArg_insideEncode hb (by simpa [Status.raisedBy] using hst) (hreason rfl)
    · exact endInFailure_raised hb hst
    · exact endInFailure_raised hb hst
  obtain ⟨hended, hclear⟩ := failWith_clears st s
  refine ⟨_, hrow, hended, hclear, rfl, rfl, rfl, ?_⟩
  simp [State.SameInputs, State.SameWorking, State.SameSchedule]

/-- Settles O53: the row has the one answer, whatever the state holds. -/
theorem allocationFailureIsNeverProduced : Obligations.AllocationFailureIsNeverProduced := fun _ => rfl

end Sys2Proof.Machine
end

section
/-! PROOFS, family 70_reset_and_hazards.md: the register table after a reset, and the idle block. -/

namespace Sys2Proof.Machine

/-- Settles O1: the host's reset answers `resetInstance s`, whose registers are those of `State.resetWith s.cfg`. -/
theorem resetGivesTheTableFromEveryState : Obligations.ResetGivesTheTableFromEveryState := by
  intro s
  refine ⟨resetInstance s, rfl, rfl, ?_⟩
  simp [resetInstance, State.resetWith, State.aSysOk, State.aUnitOk, State.fValid, State.pValid, State.msgStateValid]

/-- Settles O7: with nothing presented, running, raised or pending, the next move is the idle one, which answers the same state (R130). -/
theorem anIdleBlockDoesNothing : Obligations.AnIdleBlockDoesNothing := by
  intro s hl hp hb hs hh
  have hidle : nextTurn s = .idle := by simp [nextTurn, hp, hb, hs, hh]
  exact step_of_turn hl hidle

end Sys2Proof.Machine
end
